-- ==== Sys2Proof/Word.lean ====
section
/-! DEFINITION. The word types of the block: the spec's values are unsigned, each with a stated width
(00_scope.md R10, R11), so they are bit vectors whose arithmetic wraps at the width. -/

namespace Sys2Proof

/-- An 8-bit value: a general register, a timer, a memory byte, the immediate nn (10_state.md R30, R37). -/
abbrev Byte := BitVec 8

/-- A 16-bit value: I, PC, a stack frame, an instruction word (10_state.md R33, R34, R35). -/
abbrev Word := BitVec 16

/-- A 4-bit field of the instruction word: a register index x or y, or the count n (30_encoding.md R101). -/
abbrev Nibble := BitVec 4

/-- The 12-bit field nnn (30_encoding.md R101). -/
abbrev Addr12 := BitVec 12

end Sys2Proof
end

