-- ==== Sys2Proof/Syntax.lean ====
section
/-! DEFINITION. The 34 instructions (30_encoding.md R104), one constructor per row of spec/opcode_table.json. -/

namespace Sys2Proof

/-- An instruction with its operand fields. The types bound the fields exactly as the word does
(30_encoding.md R101, R102), and every value of every field is legal. -/
inductive Instr where
  /-- `00E0` CLS: clear the screen (45_display.md R601). -/
  | cls
  /-- `00EE` RET: return from subroutine (41_control_flow.md R200). -/
  | ret
  /-- `1nnn` JP nnn (41_control_flow.md R201). -/
  | jp (nnn : Addr12)
  /-- `2nnn` CALL nnn (41_control_flow.md R202). -/
  | call (nnn : Addr12)
  /-- `3xnn` SE Vx, nn (41_control_flow.md R204). -/
  | seImm (x : Nibble) (nn : Byte)
  /-- `4xnn` SNE Vx, nn (41_control_flow.md R205). -/
  | sneImm (x : Nibble) (nn : Byte)
  /-- `5xy0` SE Vx, Vy (41_control_flow.md R206). -/
  | seReg (x y : Nibble)
  /-- `6xnn` LD Vx, nn (42_register_alu.md R300). -/
  | ldImm (x : Nibble) (nn : Byte)
  /-- `7xnn` ADD Vx, nn (42_register_alu.md R301). -/
  | addImm (x : Nibble) (nn : Byte)
  /-- `8xy0` LD Vx, Vy (42_register_alu.md R302). -/
  | ldReg (x y : Nibble)
  /-- `8xy1` OR Vx, Vy (42_register_alu.md R303). -/
  | orReg (x y : Nibble)
  /-- `8xy2` AND Vx, Vy (42_register_alu.md R304). -/
  | andReg (x y : Nibble)
  /-- `8xy3` XOR Vx, Vy (42_register_alu.md R305). -/
  | xorReg (x y : Nibble)
  /-- `8xy4` ADD Vx, Vy (42_register_alu.md R306). -/
  | addReg (x y : Nibble)
  /-- `8xy5` SUB Vx, Vy (42_register_alu.md R307). -/
  | subReg (x y : Nibble)
  /-- `8xy6` SHR Vx, Vy (42_register_alu.md R308). -/
  | shrReg (x y : Nibble)
  /-- `8xy7` SUBN Vx, Vy (42_register_alu.md R309). -/
  | subnReg (x y : Nibble)
  /-- `8xyE` SHL Vx, Vy (42_register_alu.md R310). -/
  | shlReg (x y : Nibble)
  /-- `9xy0` SNE Vx, Vy (41_control_flow.md R207). -/
  | sneReg (x y : Nibble)
  /-- `Annn` LD I, nnn (43_index_memory.md R400). -/
  | ldI (nnn : Addr12)
  /-- `Bnnn` JP V0, nnn (41_control_flow.md R203). -/
  | jpV0 (nnn : Addr12)
  /-- `Cxnn` RND Vx, nn (42_register_alu.md R311). -/
  | rnd (x : Nibble) (nn : Byte)
  /-- `Dxyn` DRW Vx, Vy, n (45_display.md R602). -/
  | drw (x y n : Nibble)
  /-- `Ex9E` SKP Vx (44_timers_keys.md R504). -/
  | skp (x : Nibble)
  /-- `ExA1` SKNP Vx (44_timers_keys.md R505). -/
  | sknp (x : Nibble)
  /-- `Fx07` LD Vx, DT (44_timers_keys.md R501). -/
  | ldVxDt (x : Nibble)
  /-- `Fx0A` LD Vx, K (44_timers_keys.md R506). -/
  | ldVxK (x : Nibble)
  /-- `Fx15` LD DT, Vx (44_timers_keys.md R502). -/
  | ldDtVx (x : Nibble)
  /-- `Fx18` LD ST, Vx (44_timers_keys.md R503). -/
  | ldStVx (x : Nibble)
  /-- `Fx1E` ADD I, Vx (43_index_memory.md R401). -/
  | addI (x : Nibble)
  /-- `Fx29` LD F, Vx (43_index_memory.md R402). -/
  | ldF (x : Nibble)
  /-- `Fx33` LD B, Vx (43_index_memory.md R403). -/
  | ldB (x : Nibble)
  /-- `Fx55` LD [I], Vx (43_index_memory.md R404). -/
  | storeRegs (x : Nibble)
  /-- `Fx65` LD Vx, [I] (43_index_memory.md R405). -/
  | loadRegs (x : Nibble)
  deriving DecidableEq, Repr

end Sys2Proof
end

