-- ==== Sys2Proof/WellFormed.lean ====
section
/-! DEFINITION. Which words are instructions (30_encoding.md R104, R106). The operand fields of an `Instr` carry their
bounds in their types and the spec refuses no operand value, so an `Instr` is never ill-formed; what can be
ill-formed is a WORD, one that matches no row of the opcode map. The check below is the spec's own mask and match
table, written apart from the decoder, which follows the keyed dispatch of R103. -/

namespace Sys2Proof

/-- A row of the opcode map: a word w is of the row when `w AND mask = fixed` (30_encoding.md R104). -/
structure OpcodeRow where
  pattern : String
  fixed : Word
  mask : Word
  deriving DecidableEq, Repr

/-- The row of an instruction (30_encoding.md R104). -/
def Instr.row : Instr → OpcodeRow
  | .cls => ⟨"00E0", 0x00E0, 0xFFFF⟩
  | .ret => ⟨"00EE", 0x00EE, 0xFFFF⟩
  | .jp _ => ⟨"1nnn", 0x1000, 0xF000⟩
  | .call _ => ⟨"2nnn", 0x2000, 0xF000⟩
  | .seImm _ _ => ⟨"3xnn", 0x3000, 0xF000⟩
  | .sneImm _ _ => ⟨"4xnn", 0x4000, 0xF000⟩
  | .seReg _ _ => ⟨"5xy0", 0x5000, 0xF00F⟩
  | .ldImm _ _ => ⟨"6xnn", 0x6000, 0xF000⟩
  | .addImm _ _ => ⟨"7xnn", 0x7000, 0xF000⟩
  | .ldReg _ _ => ⟨"8xy0", 0x8000, 0xF00F⟩
  | .orReg _ _ => ⟨"8xy1", 0x8001, 0xF00F⟩
  | .andReg _ _ => ⟨"8xy2", 0x8002, 0xF00F⟩
  | .xorReg _ _ => ⟨"8xy3", 0x8003, 0xF00F⟩
  | .addReg _ _ => ⟨"8xy4", 0x8004, 0xF00F⟩
  | .subReg _ _ => ⟨"8xy5", 0x8005, 0xF00F⟩
  | .shrReg _ _ => ⟨"8xy6", 0x8006, 0xF00F⟩
  | .subnReg _ _ => ⟨"8xy7", 0x8007, 0xF00F⟩
  | .shlReg _ _ => ⟨"8xyE", 0x800E, 0xF00F⟩
  | .sneReg _ _ => ⟨"9xy0", 0x9000, 0xF00F⟩
  | .ldI _ => ⟨"Annn", 0xA000, 0xF000⟩
  | .jpV0 _ => ⟨"Bnnn", 0xB000, 0xF000⟩
  | .rnd _ _ => ⟨"Cxnn", 0xC000, 0xF000⟩
  | .drw _ _ _ => ⟨"Dxyn", 0xD000, 0xF000⟩
  | .skp _ => ⟨"Ex9E", 0xE09E, 0xF0FF⟩
  | .sknp _ => ⟨"ExA1", 0xE0A1, 0xF0FF⟩
  | .ldVxDt _ => ⟨"Fx07", 0xF007, 0xF0FF⟩
  | .ldVxK _ => ⟨"Fx0A", 0xF00A, 0xF0FF⟩
  | .ldDtVx _ => ⟨"Fx15", 0xF015, 0xF0FF⟩
  | .ldStVx _ => ⟨"Fx18", 0xF018, 0xF0FF⟩
  | .addI _ => ⟨"Fx1E", 0xF01E, 0xF0FF⟩
  | .ldF _ => ⟨"Fx29", 0xF029, 0xF0FF⟩
  | .ldB _ => ⟨"Fx33", 0xF033, 0xF0FF⟩
  | .storeRegs _ => ⟨"Fx55", 0xF055, 0xF0FF⟩
  | .loadRegs _ => ⟨"Fx65", 0xF065, 0xF0FF⟩

/-- The opcode map: families 0 to 7 (30_encoding.md R104). -/
def opcodeRowsLow : List OpcodeRow := [
  ⟨"00E0", 0x00E0, 0xFFFF⟩,
  ⟨"00EE", 0x00EE, 0xFFFF⟩,
  ⟨"1nnn", 0x1000, 0xF000⟩,
  ⟨"2nnn", 0x2000, 0xF000⟩,
  ⟨"3xnn", 0x3000, 0xF000⟩,
  ⟨"4xnn", 0x4000, 0xF000⟩,
  ⟨"5xy0", 0x5000, 0xF00F⟩,
  ⟨"6xnn", 0x6000, 0xF000⟩,
  ⟨"7xnn", 0x7000, 0xF000⟩]

/-- The opcode map: family 8 (30_encoding.md R104, R105). -/
def opcodeRowsAlu : List OpcodeRow := [
  ⟨"8xy0", 0x8000, 0xF00F⟩,
  ⟨"8xy1", 0x8001, 0xF00F⟩,
  ⟨"8xy2", 0x8002, 0xF00F⟩,
  ⟨"8xy3", 0x8003, 0xF00F⟩,
  ⟨"8xy4", 0x8004, 0xF00F⟩,
  ⟨"8xy5", 0x8005, 0xF00F⟩,
  ⟨"8xy6", 0x8006, 0xF00F⟩,
  ⟨"8xy7", 0x8007, 0xF00F⟩,
  ⟨"8xyE", 0x800E, 0xF00F⟩]

/-- The opcode map: families 9 to F (30_encoding.md R104). -/
def opcodeRowsHigh : List OpcodeRow := [
  ⟨"9xy0", 0x9000, 0xF00F⟩,
  ⟨"Annn", 0xA000, 0xF000⟩,
  ⟨"Bnnn", 0xB000, 0xF000⟩,
  ⟨"Cxnn", 0xC000, 0xF000⟩,
  ⟨"Dxyn", 0xD000, 0xF000⟩,
  ⟨"Ex9E", 0xE09E, 0xF0FF⟩,
  ⟨"ExA1", 0xE0A1, 0xF0FF⟩,
  ⟨"Fx07", 0xF007, 0xF0FF⟩,
  ⟨"Fx0A", 0xF00A, 0xF0FF⟩,
  ⟨"Fx15", 0xF015, 0xF0FF⟩,
  ⟨"Fx18", 0xF018, 0xF0FF⟩,
  ⟨"Fx1E", 0xF01E, 0xF0FF⟩,
  ⟨"Fx29", 0xF029, 0xF0FF⟩,
  ⟨"Fx33", 0xF033, 0xF0FF⟩,
  ⟨"Fx55", 0xF055, 0xF0FF⟩,
  ⟨"Fx65", 0xF065, 0xF0FF⟩]

/-- The opcode map, in the spec's order (30_encoding.md R104). -/
def opcodeRows : List OpcodeRow := opcodeRowsLow ++ opcodeRowsAlu ++ opcodeRowsHigh

/-- The word fits the row (30_encoding.md R104). -/
def OpcodeRow.fits (r : OpcodeRow) (w : Word) : Bool := w &&& r.mask == r.fixed

/-- The word is an instruction; every other word is an unimplemented opcode (30_encoding.md R104, R106). -/
def wordWellFormed (w : Word) : Bool := opcodeRows.any (fun r => r.fits w)

end Sys2Proof
end

