-- ==== Sys2Proof/Decode.lean ====
section
/-! DEFINITION. The decoder (30_encoding.md R100 to R107): the six fields of a word, the keyed dispatch to one of the 34
instructions, the refusals by name of every other word, and the encoder. -/

namespace Sys2Proof

/-! ## Byte order and fields -/

/-- Two bytes as a word, big-endian: the byte at the lower address is bits 15:8 (20_memory.md R73). -/
def bigEndian (hi lo : Byte) : Word := hi ++ lo

/-- The byte of a word that lies at the lower address (20_memory.md R73). -/
def highByte (w : Word) : Byte := w.extractLsb' 8 8

/-- The byte of a word that lies at the higher address (20_memory.md R73). -/
def lowByte (w : Word) : Byte := w.extractLsb' 0 8

/-- The six fields of an instruction word (30_encoding.md R101). -/
structure Fields where
  op : Nibble
  x : Nibble
  y : Nibble
  n : Nibble
  nn : Byte
  nnn : Addr12
  deriving DecidableEq, Repr

/-- Splitting a word into its fields: total, with no failure (30_encoding.md R101). -/
def fieldsOf (w : Word) : Fields where
  op := w.extractLsb' 12 4
  x := w.extractLsb' 8 4
  y := w.extractLsb' 4 4
  n := w.extractLsb' 0 4
  nn := w.extractLsb' 0 8
  nnn := w.extractLsb' 0 12

/-- Why bytes are no instruction: the unimplemented space the word lies in (30_encoding.md R106), or too few bytes
for a word (R100). -/
inductive DecodeError where
  /-- 0nnn with nnn neither 0x0E0 nor 0x0EE. -/
  | family0 (w : Word)
  /-- 5xyn with n not 0. -/
  | family5 (w : Word)
  /-- 8xyn with n one of 8, 9, A, B, C, D, F. -/
  | family8 (w : Word)
  /-- 9xyn with n not 0. -/
  | family9 (w : Word)
  /-- Exnn with nn neither 0x9E nor 0xA1. -/
  | familyE (w : Word)
  /-- Fxnn with nn none of the nine sub-opcodes. -/
  | familyF (w : Word)
  /-- Fewer than two bytes. -/
  | truncated
  deriving DecidableEq, Repr

/-! ## Dispatch by op and second key (30_encoding.md R103) -/

/-- Family 0, keyed by nnn. -/
def decodeFamily0 (w : Word) (f : Fields) : Except DecodeError Instr :=
  match f.nnn with
  | 0x0E0#12 => .ok .cls
  | 0x0EE#12 => .ok .ret
  | _ => .error (.family0 w)

/-- Family 5, keyed by n. -/
def decodeFamily5 (w : Word) (f : Fields) : Except DecodeError Instr :=
  match f.n with
  | 0x0#4 => .ok (.seReg f.x f.y)
  | _ => .error (.family5 w)

/-- Family 8, keyed by n; the numbers of the nine operations are those of R105. -/
def decodeFamily8 (w : Word) (f : Fields) : Except DecodeError Instr :=
  match f.n with
  | 0x0#4 => .ok (.ldReg f.x f.y)
  | 0x1#4 => .ok (.orReg f.x f.y)
  | 0x2#4 => .ok (.andReg f.x f.y)
  | 0x3#4 => .ok (.xorReg f.x f.y)
  | 0x4#4 => .ok (.addReg f.x f.y)
  | 0x5#4 => .ok (.subReg f.x f.y)
  | 0x6#4 => .ok (.shrReg f.x f.y)
  | 0x7#4 => .ok (.subnReg f.x f.y)
  | 0xE#4 => .ok (.shlReg f.x f.y)
  | _ => .error (.family8 w)

/-- Family 9, keyed by n. -/
def decodeFamily9 (w : Word) (f : Fields) : Except DecodeError Instr :=
  match f.n with
  | 0x0#4 => .ok (.sneReg f.x f.y)
  | _ => .error (.family9 w)

/-- Family E, keyed by nn. -/
def decodeFamilyE (w : Word) (f : Fields) : Except DecodeError Instr :=
  match f.nn with
  | 0x9E#8 => .ok (.skp f.x)
  | 0xA1#8 => .ok (.sknp f.x)
  | _ => .error (.familyE w)

/-- Family F, keyed by nn. -/
def decodeFamilyF (w : Word) (f : Fields) : Except DecodeError Instr :=
  match f.nn with
  | 0x07#8 => .ok (.ldVxDt f.x)
  | 0x0A#8 => .ok (.ldVxK f.x)
  | 0x15#8 => .ok (.ldDtVx f.x)
  | 0x18#8 => .ok (.ldStVx f.x)
  | 0x1E#8 => .ok (.addI f.x)
  | 0x29#8 => .ok (.ldF f.x)
  | 0x33#8 => .ok (.ldB f.x)
  | 0x55#8 => .ok (.storeRegs f.x)
  | 0x65#8 => .ok (.loadRegs f.x)
  | _ => .error (.familyF w)

/-- The instruction a word stands for, or the name of the unimplemented space it lies in (30_encoding.md R103 to R106).
The last arm is op = 0xF. -/
def decodeWord (w : Word) : Except DecodeError Instr :=
  let f := fieldsOf w
  match f.op with
  | 0x0#4 => decodeFamily0 w f
  | 0x1#4 => .ok (.jp f.nnn)
  | 0x2#4 => .ok (.call f.nnn)
  | 0x3#4 => .ok (.seImm f.x f.nn)
  | 0x4#4 => .ok (.sneImm f.x f.nn)
  | 0x5#4 => decodeFamily5 w f
  | 0x6#4 => .ok (.ldImm f.x f.nn)
  | 0x7#4 => .ok (.addImm f.x f.nn)
  | 0x8#4 => decodeFamily8 w f
  | 0x9#4 => decodeFamily9 w f
  | 0xA#4 => .ok (.ldI f.nnn)
  | 0xB#4 => .ok (.jpV0 f.nnn)
  | 0xC#4 => .ok (.rnd f.x f.nn)
  | 0xD#4 => .ok (.drw f.x f.y f.n)
  | 0xE#4 => decodeFamilyE w f
  | _ => decodeFamilyF w f

/-- Decoding bytes: the instruction in the first two, and the bytes after it (30_encoding.md R100, R107). -/
def decodeBytes : List Byte → Except DecodeError (Instr × List Byte)
  | hi :: lo :: rest => (decodeWord (bigEndian hi lo)).map (fun i => (i, rest))
  | _ => .error .truncated

/-- The instruction the decoder reads from a word of the opcode table: its low `nbits` bits, laid out in two bytes as the
memory holds them. -/
def decodeTableWord (nbits w : Nat) : Option Instr :=
  let word := BitVec.ofNat 16 (w % 2 ^ nbits)
  (decodeBytes [highByte word, lowByte word]).toOption.map (fun p => p.1)

/-! ## The encoder (30_encoding.md R101, R104) -/

/-- A word from op, x, y and n. -/
def wordXYN (op x y n : Nibble) : Word := op ++ x ++ y ++ n

/-- A word from op, x and nn. -/
def wordXNN (op x : Nibble) (nn : Byte) : Word := op ++ x ++ nn

/-- A word from op and nnn. -/
def wordNNN (op : Nibble) (nnn : Addr12) : Word := op ++ nnn

/-- The word of an instruction, its fields placed per R101 in the pattern of its row in R104. -/
def encode : Instr → Word
  | .cls => 0x00E0
  | .ret => 0x00EE
  | .jp nnn => wordNNN 0x1 nnn
  | .call nnn => wordNNN 0x2 nnn
  | .seImm x nn => wordXNN 0x3 x nn
  | .sneImm x nn => wordXNN 0x4 x nn
  | .seReg x y => wordXYN 0x5 x y 0x0
  | .ldImm x nn => wordXNN 0x6 x nn
  | .addImm x nn => wordXNN 0x7 x nn
  | .ldReg x y => wordXYN 0x8 x y 0x0
  | .orReg x y => wordXYN 0x8 x y 0x1
  | .andReg x y => wordXYN 0x8 x y 0x2
  | .xorReg x y => wordXYN 0x8 x y 0x3
  | .addReg x y => wordXYN 0x8 x y 0x4
  | .subReg x y => wordXYN 0x8 x y 0x5
  | .shrReg x y => wordXYN 0x8 x y 0x6
  | .subnReg x y => wordXYN 0x8 x y 0x7
  | .shlReg x y => wordXYN 0x8 x y 0xE
  | .sneReg x y => wordXYN 0x9 x y 0x0
  | .ldI nnn => wordNNN 0xA nnn
  | .jpV0 nnn => wordNNN 0xB nnn
  | .rnd x nn => wordXNN 0xC x nn
  | .drw x y n => wordXYN 0xD x y n
  | .skp x => wordXNN 0xE x 0x9E
  | .sknp x => wordXNN 0xE x 0xA1
  | .ldVxDt x => wordXNN 0xF x 0x07
  | .ldVxK x => wordXNN 0xF x 0x0A
  | .ldDtVx x => wordXNN 0xF x 0x15
  | .ldStVx x => wordXNN 0xF x 0x18
  | .addI x => wordXNN 0xF x 0x1E
  | .ldF x => wordXNN 0xF x 0x29
  | .ldB x => wordXNN 0xF x 0x33
  | .storeRegs x => wordXNN 0xF x 0x55
  | .loadRegs x => wordXNN 0xF x 0x65

/-- The bytes of an instruction in memory order (20_memory.md R73). -/
def encodeBytes (i : Instr) : List Byte := [highByte (encode i), lowByte (encode i)]

end Sys2Proof
end

