-- ==== Sys2Proof/Config.lean ====
section
/-! DEFINITION. The block's parameters (00_scope.md R8), the transactions its host may send (10_state.md R60), and the two free
values: which transaction comes next (R61) and the random byte of a cpu tick (R44). -/

namespace Sys2Proof

/-- `MEM_SIZE`: addresses 0x000 to 0xFFF exist (00_scope.md R8, R9). -/
abbrev Config.memSize : Nat := 0x1000

/-- `PROG_START`: where a program is loaded and where PC starts (00_scope.md R8). -/
abbrev Config.progStart : Nat := 0x200

/-- `MAX_ROM`: the longest ROM that fits above `PROG_START` (00_scope.md R8). -/
abbrev Config.maxRom : Nat := 3584

/-- `STACK_DEPTH`: the number of stack frames (00_scope.md R8). -/
abbrev Config.stackDepth : Nat := 16

/-- `FLAG_REG`: VF is the flag register (00_scope.md R8, 10_state.md R31). -/
abbrev Config.flagReg : Nibble := 0xF#4

/-- `FB_W`: columns of the framebuffer (00_scope.md R8). -/
abbrev Config.fbWidth : Nat := 64

/-- `FB_H`: rows of the framebuffer (00_scope.md R8). -/
abbrev Config.fbHeight : Nat := 32

/-- `GLYPH_BYTES`: bytes of one font glyph (00_scope.md R8); the font starts at address 0 (`FONT_BASE`). -/
abbrev Config.glyphBytes : Nat := 5

/-- The byte count of the font: 16 glyphs of `GLYPH_BYTES` (00_scope.md R8). -/
abbrev Config.fontBytes : Nat := 80

/-- The default of the parameter `FONT` (70_reset_and_hazards.md R802), 16 glyphs of 5 bytes in digit order.
PRESUMED, unsafe: the spec marks the bytes as general knowledge; the machine holds FONT in `State.font`, so a
statement about every state holds for every font (assumption 3). -/
def Config.defaultFont : Vector Byte 80 := #v[
  0xF0, 0x90, 0x90, 0x90, 0xF0,
  0x20, 0x60, 0x20, 0x20, 0x70,
  0xF0, 0x10, 0xF0, 0x80, 0xF0,
  0xF0, 0x10, 0xF0, 0x10, 0xF0,
  0x90, 0x90, 0xF0, 0x10, 0x10,
  0xF0, 0x80, 0xF0, 0x10, 0xF0,
  0xF0, 0x80, 0xF0, 0x90, 0xF0,
  0xF0, 0x10, 0x20, 0x40, 0x40,
  0xF0, 0x90, 0xF0, 0x90, 0xF0,
  0xF0, 0x90, 0xF0, 0x10, 0xF0,
  0xF0, 0x90, 0xF0, 0x90, 0x90,
  0xE0, 0x90, 0xE0, 0x90, 0xE0,
  0xF0, 0x80, 0x80, 0x80, 0xF0,
  0xE0, 0x90, 0x90, 0x90, 0xE0,
  0xF0, 0x80, 0xF0, 0x80, 0xF0,
  0xF0, 0x80, 0xF0, 0x80, 0x80]

/-- The random byte of the k-th cpu tick, where its transaction does not give it: a free draw (10_state.md R44,
decision D24). It has no body, so whatever is proved of one run holds for every byte (assumption 2, safe).
DESIGN CHOICE, unsafe where two runs are compared: the same k gives the same byte in every state (assumption 32). -/
opaque Config.freeRnd : Nat → Byte

/-- The transactions of the block's interface (10_state.md R60). -/
inductive Machine.Transaction where
  /-- Initialise with the bytes of a ROM (70_reset_and_hazards.md R800). -/
  | init (rom : List Byte)
  /-- One instruction, with the host's random byte; where it is not given it is a free value (40_execution_loop.md R130,
  10_state.md R44). -/
  | cpuTick (rnd : Option Byte)
  /-- One countdown of both timers (44_timers_keys.md R500). -/
  | timerTick
  /-- The host sets the key state (10_state.md R60). -/
  | setKeys (keys : Vector Bool 16)
  deriving DecidableEq, Repr, Inhabited

/-- The k-th transaction of the host that no schedule lists: an infinite sequence, left open (10_state.md R61, decision D2).
It has no body, so whatever is proved of one run holds for every sequence of transactions (assumption 1, safe).
DESIGN CHOICE, unsafe where two runs are compared: the same k gives the same transaction in every state (assumption 32). -/
opaque Config.freeTransaction : Nat → Machine.Transaction

end Sys2Proof
end

