-- ==== Sys2Proof/Machine/State.lean ====
section
/-! DEFINITION. The state of the block as plain data (10_state.md), the reports it logs (60_exceptions.md R701), and the state
after reset (R45). -/

namespace Sys2Proof.Machine

/-- Why the machine would stop. It has no constructor: in this block an error does not trap and never ends a run
(60_exceptions.md R700, R702). Every error is a report, logged in `State.reports`, and the next state follows. Safe. -/
inductive Fault where
  deriving DecidableEq, Repr

/-- Why the model would give an instruction no meaning. -/
inductive Refusal where
  /-- Raised by exec's arm of an instruction that has no meaning yet, and by nothing else. Safe. No arm raises it. -/
  | notModelled (mnemonic : String)
  deriving DecidableEq, Repr

/-- What an out-of-range access was for (20_memory.md R76). -/
inductive AccessKind where
  | fetch
  | read
  | write
  deriving DecidableEq, Repr

/-- The reports of 60_exceptions.md R701 with their info fields. -/
inductive Report where
  /-- Code 1: the word is no instruction; with its address (40_execution_loop.md R135). -/
  | unimplementedOpcode (word : Word) (address : Word)
  /-- Code 2: a push with SP = 16 (41_control_flow.md R202). -/
  | stackOverflow (word : Word)
  /-- Code 3: a pop with SP = 0 (41_control_flow.md R200). -/
  | stackUnderflow (word : Word)
  /-- Code 4: an access at 0x1000 or above; no word for a fetch; the lowest offending address (20_memory.md R76). -/
  | outOfRange (word : Option Word) (kind : AccessKind) (address : Nat)
  /-- Code 5: a ROM longer than 3584 bytes (70_reset_and_hazards.md R801). -/
  | romTooLarge (length : Nat)
  /-- Code 6: a key index above 15 (44_timers_keys.md R504, R505). -/
  | keyIndexOutOfRange (word : Word) (value : Byte)
  deriving DecidableEq, Repr

/-- A report in the log, with the fetch address of the cpu tick that raised it; `init` has none
(60_exceptions.md R701). -/
structure LogEntry where
  fetchAddress : Option Word
  report : Report
  deriving DecidableEq, Repr

/-- The framebuffer: 32 rows of 64 one-bit pixels; FB[c, r] is bit c of row r (10_state.md R39, 45_display.md R600).
DESIGN CHOICE, safe: which bit of a row holds which column (assumption 10). -/
abbrev Framebuffer := Vector (BitVec 64) 32

/-- A render notification: the dimensions and the snapshot (10_state.md R63). -/
structure RenderNote where
  width : Nat
  height : Nat
  pixels : Framebuffer
  deriving DecidableEq, Repr

/-- The machine's state: the record at the head of 10_state.md, then the parameter FONT, the report log (R43) and the
model's own fields (assumptions 1, 2, 3, 6, 32). -/
structure State where
  /-- V0..VF (R30). -/
  v : Vector Byte 16
  /-- I (R33). -/
  i : Word
  /-- PC (R34). -/
  pc : Word
  /-- STACK (R35). -/
  stack : Vector Word 16
  /-- SP, 0 to 16 (R36). -/
  sp : Fin 17
  /-- DT (R37). -/
  dt : Byte
  /-- ST (R37). -/
  st : Byte
  /-- KEY (R38). -/
  keys : Vector Bool 16
  /-- FB (R39). -/
  fb : Framebuffer
  /-- MEM (R40): the cells that differ from what an unlisted address reads as, by rising address. -/
  mem : List Host.Cell
  /-- FONT, the block's parameter that `init` places in memory (00_scope.md R8); nothing writes it. -/
  font : Vector Byte 80
  /-- Every report so far, oldest first; only `init` clears it (60_exceptions.md R704). -/
  reports : List LogEntry
  /-- Every render notification since the last `init`, oldest first (R63). -/
  renders : List RenderNote
  /-- The transactions the host sends next, as far as they are listed (R61); those after them are free values. -/
  schedule : List Transaction
  /-- The index of the next free transaction (R61); equal indexes read the same one (assumption 32). -/
  turns : Nat
  /-- The random byte of the cpu tick in progress, where the host's transaction gives it (R44). -/
  rnd : Option Byte
  /-- The index of the free random byte of the cpu tick in progress (R44); equal indexes read the same one (assumption 32). -/
  draws : Nat
  deriving DecidableEq, Repr

/-- The machine after reset: after `init` with an empty ROM (R45, 70_reset_and_hazards.md R800, R801). I and KEY are the
spec's decision D20 (assumption 7), FONT is the spec's default (assumption 3). -/
def State.reset : State where
  v := Vector.replicate 16 0x00
  i := 0x0000
  pc := 0x0200
  stack := Vector.replicate 16 0x0000
  sp := 0
  dt := 0x00
  st := 0x00
  keys := Vector.replicate 16 false
  fb := Vector.replicate 32 0
  mem := []
  font := Config.defaultFont
  reports := []
  renders := []
  schedule := []
  turns := 0
  rnd := none
  draws := 0

end Sys2Proof.Machine
end

