-- ==== Sys2Proof/Machine/Ops.lean ====
section
/-! DEFINITION. The named operations over registers, memory, stack, framebuffer and outputs. Each piece of state is read
and written here and nowhere else; raising a report, the block's only exception, is one shared operation. -/

namespace Sys2Proof.Machine

/-! ## Registers (10_state.md R30, R33, R34, R37) -/

/-- `V[x]`. -/
def State.getV (s : State) (x : Nibble) : Byte := s.v[x.toNat]

/-- `V[x] <- b`. -/
def State.setV (s : State) (x : Nibble) (b : Byte) : State := { s with v := s.v.set x.toNat b }

/-- `I <- a`. -/
def State.setI (s : State) (a : Word) : State := { s with i := a }

/-- `PC <- target`, the control transfer primitive (00_scope.md R12). -/
def State.setPc (s : State) (target : Word) : State := { s with pc := target }

/-- `DT <- b`. -/
def State.setDt (s : State) (b : Byte) : State := { s with dt := b }

/-- `ST <- b`. -/
def State.setSt (s : State) (b : Byte) : State := { s with st := b }

/-- `KEY <- k`, the host's alone (10_state.md R38). -/
def State.setKeys (s : State) (k : Vector Bool 16) : State := { s with keys := k }

/-! ## Memory (20_memory.md R70 to R80) -/

/-- What an unlisted address reads as: the reset contents without a ROM, FONT at 0x000..0x04F and zero above
(10_state.md R45). -/
def Memory.unlisted (font : Vector Byte 80) (a : Nat) : Byte := (font[a]?).getD 0x00

/-- The byte at an address of a cell list whose unlisted value there is `d`. -/
def Memory.get (m : List Host.Cell) (a : Nat) (d : Byte) : Byte :=
  ((m.find? (fun c => c.1 == a)).map (fun c => c.2)).getD d

/-- Storing a byte at an address whose unlisted value is `d`: the cells below, the cell where it is not `d`, the cells
above. -/
def Memory.put (m : List Host.Cell) (a : Nat) (b d : Byte) : List Host.Cell :=
  m.filter (fun c => c.1 < a) ++ ((if b = d then [] else [(a, b)]) ++ m.filter (fun c => a < c.1))

/-- The canonical form: addresses strictly rising and inside the address space, no cell equal to the unlisted value. -/
abbrev Memory.wf (font : Vector Byte 80) (m : List Host.Cell) : Prop :=
  m.Pairwise (fun c e => c.1 < e.1) ∧ ∀ c ∈ m, c.1 < Config.memSize ∧ c.2 ≠ Memory.unlisted font c.1

/-- `MEM[a]`: plain storage, a read has no side effect (20_memory.md R78). Used for addresses below 0x1000 only. -/
def State.readByte (s : State) (a : Nat) : Byte := Memory.get s.mem a (Memory.unlisted s.font a)

/-- `MEM[a] <- b`: changes only the byte it names (20_memory.md R78). Used for addresses below 0x1000 only. -/
def State.writeByte (s : State) (a : Nat) (b : Byte) : State :=
  { s with mem := Memory.put s.mem a b (Memory.unlisted s.font a) }

/-- The k bytes from a on, in ascending order (20_memory.md R74). -/
def State.readBytes (s : State) (a k : Nat) : List Byte := (List.range k).map (fun j => s.readByte (a + j))

/-- Storing bytes at a, a+1, ... in order (20_memory.md R74). -/
def State.writeBytes (s : State) (a : Nat) : List Byte → State
  | [] => s
  | b :: rest => (s.writeByte a b).writeBytes (a + 1) rest

/-- `MemRead(a, 2)`: the word at a, big-endian (00_scope.md R13, 20_memory.md R73). -/
def State.readWord (s : State) (a : Nat) : Word := bigEndian (s.readByte a) (s.readByte (a + 1))

/-! ## Outputs: reports and render notifications -/

/-- Adding a report to the log, with the fetch address of its tick (60_exceptions.md R701, R704). -/
def State.logReport (s : State) (fetchAddress : Option Word) (r : Report) : State :=
  { s with reports := s.reports ++ [⟨fetchAddress, r⟩] }

/-- `raise Report(...)` in an instruction: the block's exception. It saves nothing, changes no mode and goes to no handler;
the instruction is aborted with its state as the fetch left it, and the report is logged with the fetch address, which is
PC - 2 while an instruction runs (00_scope.md R14, 60_exceptions.md R700, R701, 40_execution_loop.md R136). There is no
return from an exception (R706). -/
def State.raise (s : State) (r : Report) : Host.Outcome State Fault Refusal :=
  .next (s.logReport (some (s.pc - 2)) r)

/-- The code of a report; 0 means no report (60_exceptions.md R701). -/
def Report.code : Option Report → Nat
  | none => 0
  | some (.unimplementedOpcode _ _) => 1
  | some (.stackOverflow _) => 2
  | some (.stackUnderflow _) => 3
  | some (.outOfRange _ _ _) => 4
  | some (.romTooLarge _) => 5
  | some (.keyIndexOutOfRange _ _) => 6

/-- `Render()`: a notification with the dimensions and the framebuffer as it stands (45_display.md R603). -/
def State.render (s : State) : State :=
  { s with renders := s.renders ++ [⟨Config.fbWidth, Config.fbHeight, s.fb⟩] }

/-! ## The call stack (10_state.md R35) -/

/-- `Push(v)`: the new state, or none when SP = 16, where nothing changes. -/
def State.push? (s : State) (a : Word) : Option State :=
  if h : s.sp.val < 16 then
    some { s with stack := s.stack.set s.sp.val a, sp := ⟨s.sp.val + 1, by omega⟩ }
  else none

/-- `Pop()`: the popped value and the new state, or none when SP = 0. The frame keeps its content (decision D26). -/
def State.pop? (s : State) : Option (Word × State) :=
  if h : 0 < s.sp.val then
    some (s.stack[s.sp.val - 1], { s with sp := ⟨s.sp.val - 1, by omega⟩ })
  else none

/-! ## The framebuffer (45_display.md R600) -/

/-- `FB[c, r]`; a place outside the grid is dark. -/
def Framebuffer.pixel (fb : Framebuffer) (c r : Nat) : Bool :=
  if h : r < 32 then fb[r].getLsbD c else false

/-- `FB[c, r] <- FB[c, r] XOR 1`, for a place inside the grid. -/
def Framebuffer.toggle (fb : Framebuffer) (c r : Nat) : Framebuffer :=
  if h : r < 32 then fb.set r (fb[r] ^^^ (1#64 <<< c)) else fb

/-- The framebuffer with every pixel 0. -/
def Framebuffer.dark : Framebuffer := Vector.replicate 32 0

/-- Replacing the framebuffer. -/
def State.setFb (s : State) (fb : Framebuffer) : State := { s with fb := fb }

/-! ## The host's sequence of transactions (10_state.md R61) -/

/-- The transaction that comes next: the first that the schedule lists, or else the next of the free sequence (assumption 1,
safe for one run). DESIGN CHOICE, unsafe where two states are compared: states with nothing listed and equal `turns` get the
same free transaction; the spec leaves it open whether two runs or instances do (assumption 32). -/
def State.upcoming (s : State) : Transaction :=
  match s.schedule with
  | [] => Config.freeTransaction s.turns
  | t :: _ => t

/-- Taking that transaction off the schedule, or off the free sequence. -/
def State.taken (s : State) : State :=
  match s.schedule with
  | [] => { s with turns := s.turns + 1 }
  | _ :: rest => { s with schedule := rest }

/-! ## The inputs of a cpu tick (10_state.md R44, R60) -/

/-- Beginning a cpu tick: its random byte is the one given, or else the next free value. -/
def State.beginTick (s : State) (rnd : Option Byte) : State := { s with rnd := rnd, draws := s.draws + 1 }

/-- `Rand()`: the random byte of the cpu tick in progress, any byte (00_scope.md R15, 10_state.md R44). Where the
host's transaction gives none it is a free value (assumption 2, safe for one run).
DESIGN CHOICE, unsafe where two states are compared: states with equal `draws` and no given byte read the same free byte; the
spec leaves it open whether two runs or instances do (assumption 32). -/
def State.rand (s : State) : Byte := s.rnd.getD (Config.freeRnd s.draws)

end Sys2Proof.Machine
end

