-- ==== Sys2Proof/Machine/Operands.lean ====
section
/-! DEFINITION. The operand forms and the values built from fields (30_encoding.md R102, 43_index_memory.md R406). -/

namespace Sys2Proof.Machine

/-- `zext_16(nnn)`: a 12-bit address as a PC or I value (30_encoding.md R102). -/
def zext16 (nnn : Addr12) : Word := nnn.setWidth 16

/-- An 8-bit value widened to 16 bits (00_scope.md R11). -/
def byteToWord (b : Byte) : Word := b.setWidth 16

/-- `skip`: PC goes a further 2, mod 2^16 (41_control_flow.md R208). -/
def State.skip (s : State) : State := s.setPc (s.pc + 2)

/-- `skip` when the condition holds (41_control_flow.md R204 to R208). -/
def State.skipIf (s : State) (c : Bool) : State := if c then s.skip else s

/-- `PC <- PC - 2`, mod 2^16: Fx0A's rewind (44_timers_keys.md R506). -/
def State.rewind (s : State) : State := s.setPc (s.pc - 2)

/-- The address of the glyph for digit d, 5·d from address 0, not masked to a digit (43_index_memory.md R402). -/
def glyphAddress (d : Byte) : Word := BitVec.ofNat 16 (Config.glyphBytes * d.toNat)

/-- The three decimal digits, hundreds first (43_index_memory.md R403). -/
def bcdDigits (b : Byte) : List Byte :=
  [BitVec.ofNat 8 (b.toNat / 100), BitVec.ofNat 8 (b.toNat / 10 % 10), BitVec.ofNat 8 (b.toNat % 10)]

/-- V0..Vx in order (43_index_memory.md R404). -/
def State.regsUpTo (s : State) (x : Nibble) : List Byte :=
  (List.range (x.toNat + 1)).map (fun k => s.getV (BitVec.ofNat 4 k))

/-- `V[k] <- b` for the bytes of a list, k rising from the number given (43_index_memory.md R405). -/
def State.loadV (s : State) (k : Nat) : List Byte → State
  | [] => s
  | b :: rest => (s.setV (BitVec.ofNat 4 k) b).loadV (k + 1) rest

/-- `CheckSpan(I, k, kind)` for k >= 1, then the effect `done`: where an address of I .. I+k-1 is 0x1000 or more, on exact
sums, the report carries the lowest such address and nothing is done (43_index_memory.md section 0, 20_memory.md R76, R77). -/
def State.withSpan (s : State) (word : Word) (kind : AccessKind) (k : Nat) (done : State) :
    Host.Outcome State Fault Refusal :=
  if s.i.toNat + k - 1 > 0xFFF then
    s.raise (.outOfRange (some word) kind (max s.i.toNat Config.memSize))
  else .next done

/-- A key index from a register: 0 to 15, none above (44_timers_keys.md R504, R505). -/
def keyIndex? (b : Byte) : Option (Fin 16) := if h : b.toNat < 16 then some ⟨b.toNat, h⟩ else none

/-- `KEY[k]` (10_state.md R38). -/
def State.key (s : State) (k : Fin 16) : Bool := s.keys[k.val]

/-- `min { k | KEY[k] }`, none where no key is pressed (44_timers_keys.md R506). -/
def State.lowestKey? (s : State) : Option (Fin 16) := (List.finRange 16).find? (fun k => s.key k)

/-- The column of a sprite's anchor, `V[x] mod 64` (45_display.md R604). -/
def State.anchorColumn (s : State) (x : Nibble) : Nat := (s.getV x).toNat % Config.fbWidth

/-- The row of a sprite's anchor, `V[y] mod 32` (45_display.md R604). -/
def State.anchorRow (s : State) (y : Nibble) : Nat := (s.getV y).toNat % Config.fbHeight

end Sys2Proof.Machine
end

