-- ==== Sys2Proof/Machine/ControlFlow.lean ====
section
/-! DEFINITION. Control flow: 00EE, 1nnn, 2nnn, Bnnn and the skips (41_control_flow.md). PC at entry is the fetch address
plus 2 (40_execution_loop.md R132). -/

namespace Sys2Proof.Machine

/-- `00EE` RET (R200): PC <- Pop(); on underflow the report, with PC as the fetch left it. -/
def execRet (s : State) : Host.Outcome State Fault Refusal :=
  match s.pop? with
  | some (t, s') => .next (s'.setPc t)
  | none => s.raise (.stackUnderflow (encode .ret))

/-- `1nnn` JP nnn (R201). -/
def execJp (nnn : Addr12) (s : State) : Host.Outcome State Fault Refusal := .next (s.setPc (zext16 nnn))

/-- `2nnn` CALL nnn (R202): Push(PC), then the jump; on overflow the report, with nothing pushed and no jump. -/
def execCall (nnn : Addr12) (s : State) : Host.Outcome State Fault Refusal :=
  match s.push? s.pc with
  | some s' => .next (s'.setPc (zext16 nnn))
  | none => s.raise (.stackOverflow (encode (.call nnn)))

/-- `Bnnn` JP V0, nnn (R203): the sum is not masked to 12 bits. -/
def execJpV0 (nnn : Addr12) (s : State) : Host.Outcome State Fault Refusal :=
  .next (s.setPc (zext16 nnn + byteToWord (s.getV 0x0)))

/-- `3xnn` SE Vx, nn (R204). -/
def execSeImm (x : Nibble) (nn : Byte) (s : State) : Host.Outcome State Fault Refusal :=
  .next (s.skipIf (s.getV x == nn))

/-- `4xnn` SNE Vx, nn (R205). -/
def execSneImm (x : Nibble) (nn : Byte) (s : State) : Host.Outcome State Fault Refusal :=
  .next (s.skipIf (s.getV x != nn))

/-- `5xy0` SE Vx, Vy (R206). -/
def execSeReg (x y : Nibble) (s : State) : Host.Outcome State Fault Refusal :=
  .next (s.skipIf (s.getV x == s.getV y))

/-- `9xy0` SNE Vx, Vy (R207). -/
def execSneReg (x y : Nibble) (s : State) : Host.Outcome State Fault Refusal :=
  .next (s.skipIf (s.getV x != s.getV y))

end Sys2Proof.Machine
end

