-- ==== Sys2Proof/Machine/Flags.lean ====
section
/-! DEFINITION. The flag values written to VF, each 0x00 or 0x01 (10_state.md R31, 42_register_alu.md R312). -/

namespace Sys2Proof.Machine

/-- A condition as a flag value (10_state.md R31). -/
def flagOf (c : Bool) : Byte := if c then 0x01 else 0x00

/-- The carry of 8xy4: 1 iff the exact sum exceeds 255 (42_register_alu.md R306). -/
def carryFlag (a b : Byte) : Byte := flagOf (decide (a.toNat + b.toNat > 255))

/-- No-borrow of 8xy5 and 8xy7: 1 iff minuend > subtrahend, strictly (42_register_alu.md R312, 90_conflicts.md C4). -/
def noBorrowFlag (minuend subtrahend : Byte) : Byte := flagOf (decide (minuend.toNat > subtrahend.toNat))

/-- The bit a right shift drops, bit 0 of the value (42_register_alu.md R308). -/
def shiftedOutRight (b : Byte) : Byte := b &&& 0x01

/-- The bit a left shift drops, bit 7 of the value (42_register_alu.md R310). -/
def shiftedOutLeft (b : Byte) : Byte := (b >>> 7) &&& 0x01

/-- `VF <- f` (10_state.md R31). -/
def State.setFlag (s : State) (f : Byte) : State := s.setV Config.flagReg f

/-- `VF <- f(V[x])`: a flag computed from register x as it stands (42_register_alu.md R308, R310). -/
def State.flagFrom (s : State) (x : Nibble) (f : Byte → Byte) : State := s.setFlag (f (s.getV x))

/-- `V[x] <- f(V[x])`: a step that acts on register x as it stands (42_register_alu.md R308, R310). -/
def State.updateV (s : State) (x : Nibble) (f : Byte → Byte) : State := s.setV x (f (s.getV x))

end Sys2Proof.Machine
end

