-- ==== Sys2Proof/Machine/Display.lean ====
section
/-! DEFINITION. The display engine: 00E0 and Dxyn (45_display.md). -/

namespace Sys2Proof.Machine

/-- Drawing the set sprite bit at column c, row r: outside the grid it is dropped; inside, the pixel toggles and a lit one
sets the collision flag (R602, R604, R605). The pair is the framebuffer and the flag so far. -/
def blitPixel (c r : Nat) (p : Framebuffer × Bool) : Framebuffer × Bool :=
  if c < Config.fbWidth ∧ r < Config.fbHeight then (p.1.toggle c r, p.2 || p.1.pixel c r) else p

/-- Drawing one sprite row from column c on, bit 7 first (R600, R602). -/
def blitRow (row : Byte) (c r : Nat) (p : Framebuffer × Bool) : Framebuffer × Bool :=
  (List.range 8).foldl (fun q b => if row.getLsbD (7 - b) then blitPixel (c + b) r q else q) p

/-- Drawing the sprite rows from screen row r down (R602). -/
def blitRows : List Byte → Nat → Nat → Framebuffer × Bool → Framebuffer × Bool
  | [], _, _, p => p
  | row :: rest, c, r, p => blitRows rest c (r + 1) (blitRow row c r p)

/-- `00E0` CLS (R601). -/
def execCls (s : State) : Host.Outcome State Fault Refusal := .next (s.setFb Framebuffer.dark).render

/-- The sprite's n rows at I drawn on FB from the anchor: the new framebuffer and whether a lit pixel was turned off (R602). -/
def State.blit (s : State) (x y n : Nibble) : Framebuffer × Bool :=
  blitRows (s.readBytes s.i.toNat n.toNat) (s.anchorColumn x) (s.anchorRow y) (s.fb, false)

/-- The draw of n sprite rows at I, once its span is known to be in range: VF is 1 after the scan iff a lit
pixel was turned off, then one render notification (R602, R603). -/
def State.draw (s : State) (x y n : Nibble) : State :=
  ((s.setFb (s.blit x y n).1).setFlag (flagOf (s.blit x y n).2)).render

/-- `Dxyn` DRW Vx, Vy, n (R602): with n = 0 no memory is read and no span is checked. -/
def execDrw (x y n : Nibble) (s : State) : Host.Outcome State Fault Refusal :=
  if n = 0x0 then .next (s.draw x y n)
  else s.withSpan (encode (.drw x y n)) .read n.toNat (s.draw x y n)

end Sys2Proof.Machine
end

