-- ==== Sys2Proof/Machine/IndexMemory.lean ====
section
/-! DEFINITION. Index register and memory transfers: Annn, Fx1E, Fx29, Fx33, Fx55, Fx65 (43_index_memory.md). A transfer
checks its whole span before it moves a byte and never changes I. -/

namespace Sys2Proof.Machine

/-- `Annn` LD I, nnn (R400). -/
def execLdI (nnn : Addr12) (s : State) : Host.Outcome State Fault Refusal := .next (s.setI (zext16 nnn))

/-- `Fx1E` ADD I, Vx (R401): mod 2^16, no flag. -/
def execAddI (x : Nibble) (s : State) : Host.Outcome State Fault Refusal :=
  .next (s.setI (s.i + byteToWord (s.getV x)))

/-- `Fx29` LD F, Vx (R402). -/
def execLdF (x : Nibble) (s : State) : Host.Outcome State Fault Refusal :=
  .next (s.setI (glyphAddress (s.getV x)))

/-- `Fx33` LD B, Vx (R403). -/
def execLdB (x : Nibble) (s : State) : Host.Outcome State Fault Refusal :=
  s.withSpan (encode (.ldB x)) .write 3 (s.writeBytes s.i.toNat (bcdDigits (s.getV x)))

/-- `Fx55` LD [I], Vx (R404). -/
def execStoreRegs (x : Nibble) (s : State) : Host.Outcome State Fault Refusal :=
  s.withSpan (encode (.storeRegs x)) .write (x.toNat + 1) (s.writeBytes s.i.toNat (s.regsUpTo x))

/-- `Fx65` LD Vx, [I] (R405). -/
def execLoadRegs (x : Nibble) (s : State) : Host.Outcome State Fault Refusal :=
  s.withSpan (encode (.loadRegs x)) .read (x.toNat + 1) (s.loadV 0 (s.readBytes s.i.toNat (x.toNat + 1)))

end Sys2Proof.Machine
end

