-- ==== Sys2Proof/Machine/RegisterAlu.lean ====
section
/-! DEFINITION. Register loads and ALU: 6xnn, 7xnn, 8xy0 to 8xy7, 8xyE, Cxnn (42_register_alu.md). None of them raises a
report. Sources are read before any write; the order of the writes is the rule's (R313). -/

namespace Sys2Proof.Machine

/-- `6xnn` LD Vx, nn (R300). -/
def execLdImm (x : Nibble) (nn : Byte) (s : State) : Host.Outcome State Fault Refusal := .next (s.setV x nn)

/-- `7xnn` ADD Vx, nn (R301): mod 256, no flag. -/
def execAddImm (x : Nibble) (nn : Byte) (s : State) : Host.Outcome State Fault Refusal :=
  .next (s.setV x (s.getV x + nn))

/-- `8xy0` LD Vx, Vy (R302). -/
def execLdReg (x y : Nibble) (s : State) : Host.Outcome State Fault Refusal := .next (s.setV x (s.getV y))

/-- `8xy1` OR Vx, Vy (R303). -/
def execOrReg (x y : Nibble) (s : State) : Host.Outcome State Fault Refusal :=
  .next (s.setV x (s.getV x ||| s.getV y))

/-- `8xy2` AND Vx, Vy (R304). -/
def execAndReg (x y : Nibble) (s : State) : Host.Outcome State Fault Refusal :=
  .next (s.setV x (s.getV x &&& s.getV y))

/-- `8xy3` XOR Vx, Vy (R305). -/
def execXorReg (x y : Nibble) (s : State) : Host.Outcome State Fault Refusal :=
  .next (s.setV x (s.getV x ^^^ s.getV y))

/-- `8xy4` ADD Vx, Vy (R306): the carry is written last. -/
def execAddReg (x y : Nibble) (s : State) : Host.Outcome State Fault Refusal :=
  .next ((s.setV x (s.getV x + s.getV y)).setFlag (carryFlag (s.getV x) (s.getV y)))

/-- `8xy5` SUB Vx, Vy (R307): the flag is written last. -/
def execSubReg (x y : Nibble) (s : State) : Host.Outcome State Fault Refusal :=
  .next ((s.setV x (s.getV x - s.getV y)).setFlag (noBorrowFlag (s.getV x) (s.getV y)))

/-- `8xy6` SHR Vx, Vy (R308): copy Vy, write the flag from the copy, then shift register x as it then stands. -/
def execShrReg (x y : Nibble) (s : State) : Host.Outcome State Fault Refusal :=
  .next (((s.setV x (s.getV y)).flagFrom x shiftedOutRight).updateV x (fun b => b >>> 1))

/-- `8xy7` SUBN Vx, Vy (R309): the flag is written last. -/
def execSubnReg (x y : Nibble) (s : State) : Host.Outcome State Fault Refusal :=
  .next ((s.setV x (s.getV y - s.getV x)).setFlag (noBorrowFlag (s.getV y) (s.getV x)))

/-- `8xyE` SHL Vx, Vy (R310): copy Vy, write the flag from the copy, then shift register x as it then stands. -/
def execShlReg (x y : Nibble) (s : State) : Host.Outcome State Fault Refusal :=
  .next (((s.setV x (s.getV y)).flagFrom x shiftedOutLeft).updateV x (fun b => b <<< 1))

/-- `Cxnn` RND Vx, nn (R311): the tick's random byte, a free draw, under the mask nn. -/
def execRnd (x : Nibble) (nn : Byte) (s : State) : Host.Outcome State Fault Refusal :=
  .next (s.setV x (s.rand &&& nn))

end Sys2Proof.Machine
end

