-- ==== Sys2Proof/Machine/TimersKeys.lean ====
section
/-! DEFINITION. The timer and key instructions: Fx07, Fx15, Fx18, Ex9E, ExA1, Fx0A (44_timers_keys.md). -/

namespace Sys2Proof.Machine

/-- `Fx07` LD Vx, DT (R501). -/
def execLdVxDt (x : Nibble) (s : State) : Host.Outcome State Fault Refusal := .next (s.setV x s.dt)

/-- `Fx15` LD DT, Vx (R502). -/
def execLdDtVx (x : Nibble) (s : State) : Host.Outcome State Fault Refusal := .next (s.setDt (s.getV x))

/-- `Fx18` LD ST, Vx (R503). -/
def execLdStVx (x : Nibble) (s : State) : Host.Outcome State Fault Refusal := .next (s.setSt (s.getV x))

/-- `Ex9E` SKP Vx (R504): a key index above 15 is a report, with no skip. -/
def execSkp (x : Nibble) (s : State) : Host.Outcome State Fault Refusal :=
  match keyIndex? (s.getV x) with
  | some k => .next (s.skipIf (s.key k))
  | none => s.raise (.keyIndexOutOfRange (encode (.skp x)) (s.getV x))

/-- `ExA1` SKNP Vx (R505): a key index above 15 is a report, with no skip. -/
def execSknp (x : Nibble) (s : State) : Host.Outcome State Fault Refusal :=
  match keyIndex? (s.getV x) with
  | some k => .next (s.skipIf (!s.key k))
  | none => s.raise (.keyIndexOutOfRange (encode (.sknp x)) (s.getV x))

/-- `Fx0A` LD Vx, K (R506): the lowest pressed key, or PC back at this instruction. -/
def execLdVxK (x : Nibble) (s : State) : Host.Outcome State Fault Refusal :=
  match s.lowestKey? with
  | some k => .next (s.setV x (BitVec.ofNat 8 k.val))
  | none => .next s.rewind

end Sys2Proof.Machine
end

