-- ==== Sys2Proof/Machine/Fetch.lean ====
section
/-! DEFINITION. Fetch (40_execution_loop.md R131), and placing a word where the next fetch reads it. -/

namespace Sys2Proof.Machine

/-- The address a fetch at PC finds out of range: the first of PC, PC+1 above 0xFFF (40_execution_loop.md R131). -/
def State.badFetchAddress? (s : State) : Option Nat :=
  if s.pc.toNat > 0xFFF then some s.pc.toNat
  else if s.pc.toNat + 1 > 0xFFF then some (s.pc.toNat + 1)
  else none

/-- PC past the fetched word: PC + 2 mod 2^16 (40_execution_loop.md R131). -/
def State.advance (s : State) : State := s.setPc (s.pc + 2)

/-- The state whose next cpu tick fetches the word: the word in memory at PC, big-endian, and that tick
scheduled next. A PC that no fetch can read is first set to 0x200. -/
def State.placeWord (s : State) (w : Word) : State :=
  let s1 := if s.badFetchAddress? = none then s else s.setPc (BitVec.ofNat 16 Config.progStart)
  { s1.writeBytes s1.pc.toNat [highByte w, lowByte w] with schedule := [.cpuTick none] }

end Sys2Proof.Machine
end

