-- ==== Sys2Proof/Machine/Transactions.lean ====
section
/-! DEFINITION. The host's transactions other than the cpu tick: `init` (70_reset_and_hazards.md R800, R801) and
`timer_tick` (44_timers_keys.md R500); `set_keys` is `State.setKeys`. -/

namespace Sys2Proof.Machine

/-- `timer_tick()`: each timer goes down by 1 unless it is 0 (44_timers_keys.md R500). -/
def State.timerTick (s : State) : State :=
  { s with
    dt := if s.dt = 0x00 then 0x00 else s.dt - 1
    st := if s.st = 0x00 then 0x00 else s.st - 1 }

/-- `LoadRom(rom)`: the bytes from 0x200 on in file order; a ROM longer than 3584 bytes is reported and no byte of it
written (70_reset_and_hazards.md R801). -/
def State.loadRom (s : State) (rom : List Byte) : State :=
  if rom.length > Config.maxRom then s.logReport none (.romTooLarge rom.length)
  else s.writeBytes Config.progStart rom

/-- `init(rom)`: the whole record at its reset value with FONT in place, then the ROM (70_reset_and_hazards.md R800). The
host's own schedule, the parameter FONT and the indexes of the free values are no part of the record (assumption 30). -/
def State.init (s : State) (rom : List Byte) : State :=
  State.loadRom { State.reset with font := s.font, schedule := s.schedule, turns := s.turns, draws := s.draws } rom

end Sys2Proof.Machine
end

