-- ==== Sys2Proof/Machine/CpuTick.lean ====
section
/-! DEFINITION. The cpu tick (40_execution_loop.md R130) and the transactions of the interface (10_state.md R60). -/

namespace Sys2Proof.Machine

/-- Decode and dispatch of a fetched word; PC is already past it. A word that is no instruction is reported with its address
(40_execution_loop.md R133, R135). -/
def State.runWord (s : State) (w : Word) : Host.Outcome State Fault Refusal :=
  match decodeWord w with
  | .ok i => exec i s
  | .error _ => s.raise (.unimplementedOpcode w (s.pc - 2))

/-- One fetch, one decode, one dispatch. An out-of-range fetch is reported at the fetch address and leaves PC
(40_execution_loop.md R130, R131). -/
def State.fetchAndRun (s : State) : Host.Outcome State Fault Refusal :=
  match s.badFetchAddress? with
  | some a => .next (s.logReport (some s.pc) (.outOfRange none .fetch a))
  | none => s.advance.runWord (s.readWord s.pc.toNat)

/-- `cpu_tick(rnd)` (40_execution_loop.md R130). The byte is none where the host's transaction gives none. -/
def State.cpuTick (s : State) (rnd : Option Byte) : Host.Outcome State Fault Refusal :=
  (s.beginTick rnd).fetchAndRun

/-- One transaction of the interface (10_state.md R60). -/
def State.transact (s : State) : Transaction → Host.Outcome State Fault Refusal
  | .init rom => .next (s.init rom)
  | .cpuTick rnd => s.cpuTick rnd
  | .timerTick => .next s.timerTick
  | .setKeys keys => .next (s.setKeys keys)

/-- The next transaction, whichever the host sends: any finite or infinite sequence (10_state.md R61, assumption 1). -/
def State.nextTransaction (s : State) : Host.Outcome State Fault Refusal := s.taken.transact s.upcoming

end Sys2Proof.Machine
end

