-- ==== Sys2Proof/Machine/Step.lean ====
section
/-! DEFINITION. One step of the machine: one atomic transaction (10_state.md R60, R61). -/

namespace Sys2Proof.Machine

/-- One step: the next transaction of the host's sequence. -/
def step (s : State) : Host.Outcome State Fault Refusal := s.nextTransaction

/-- The state with the table's word placed where the next step fetches it: its low `nbits` bits, the bits above zero. -/
def State.withFetchWord (s : State) (nbits w : Nat) : State := s.placeWord (BitVec.ofNat 16 (w % 2 ^ nbits))

end Sys2Proof.Machine
end

