-- ==== Sys2Proof/Safety.lean ====
section
/-! DEFINITION. What counts as a safe run, the invariants, and the words the claims use: frames (what an instruction leaves
unchanged), the pixels a sprite covers, and runs. PC of a state given to `exec` is the fetch address plus 2
(40_execution_loop.md R132), so a frame that keeps PC says that the instruction only advances. -/

namespace Sys2Proof.Machine

/-! ## Safe runs -/

/-- No report is logged: the premise of every claim that a program behaves (60_exceptions.md R704). -/
def State.reportFree (s : State) : Prop := s.reports = []

/-- k transactions, each of which answers a next state, end in t. -/
def runsTo (k : Nat) (s t : State) : Prop := Host.Core.run Sys2Proof.core k s = .next t

/-- The first k transactions of an infinite sequence, whatever the state's own schedule says; the sequence is the host's choice
(10_state.md R61). A finite sequence is the first part of an infinite one. -/
def runUnder : Nat → (Nat → Transaction) → State → Host.Outcome State Fault Refusal
  | 0, _, s => .next s
  | k + 1, f, s =>
    match s.transact (f 0) with
    | .next t => runUnder k (fun n => f (n + 1)) t
    | .fault r => .fault r
    | .refused r => .refused r

/-- k transactions run from s and leave no report in the log. -/
def runsReportFree (k : Nat) (s : State) : Prop := ∃ t, runsTo k s t ∧ t.reportFree

/-! ## Invariants -/

/-- Memory is in its canonical form: rising addresses below 0x1000, no cell that repeats the unlisted value. -/
abbrev State.memoryCanonical (s : State) : Prop := Memory.wf s.font s.mem

/-- PC is at most 0x10FE and every frame at most 0x1000, so that no PC arithmetic wraps upward (decision D19). -/
abbrev State.pcBounded (s : State) : Prop :=
  s.pc.toNat ≤ 0x10FE ∧ ∀ k : Fin 16, s.stack[k.val].toNat ≤ 0x1000

/-! ## Frames -/

/-- Every byte of memory reads as before. -/
def keepsMemory (s t : State) : Prop := ∀ a, t.readByte a = s.readByte a

/-- Nothing but the general registers may differ. -/
def onlyRegisters (s t : State) : Prop := t = { s with v := t.v } ∧ keepsMemory s t

/-- Nothing but PC may differ. -/
def onlyPc (s t : State) : Prop := t = { s with pc := t.pc } ∧ keepsMemory s t

/-- Nothing but I may differ. -/
def onlyI (s t : State) : Prop := t = { s with i := t.i } ∧ keepsMemory s t

/-- Nothing but DT may differ. -/
def onlyDt (s t : State) : Prop := t = { s with dt := t.dt } ∧ keepsMemory s t

/-- Nothing but ST may differ. -/
def onlySt (s t : State) : Prop := t = { s with st := t.st } ∧ keepsMemory s t

/-- Nothing but PC, the frames and SP may differ. -/
def onlyStackAndPc (s t : State) : Prop :=
  t = { s with pc := t.pc, stack := t.stack, sp := t.sp } ∧ keepsMemory s t

/-- Nothing but memory may differ; which bytes may is said beside it. -/
def onlyMemory (s t : State) : Prop := t = { s with mem := t.mem }

/-- Nothing but the registers, FB and the render output may differ. -/
def onlyDisplay (s t : State) : Prop :=
  t = { s with v := t.v, fb := t.fb, renders := t.renders } ∧ keepsMemory s t

/-- The instruction was aborted with this report: it is in the log with the fetch address PC - 2, and nothing else differs
(40_execution_loop.md R136). -/
def abortedWith (r : Report) (s t : State) : Prop :=
  t = { s with reports := s.reports ++ [⟨some (s.pc - 2), r⟩] } ∧ keepsMemory s t

/-- Every general register but those listed reads as before. -/
def keepsRegistersBut (xs : List Nibble) (s t : State) : Prop := ∀ r, r ∉ xs → t.getV r = s.getV r

/-! ## The display -/

/-- The sprite of `Dxyn` has a set bit on the pixel at column c, row r: row k of the sprite lies k rows below the anchor, its
bit 7 on the anchor's column and bit 0 seven columns to the right (45_display.md R600, R602). -/
def State.spriteCovers (s : State) (x y n : Nibble) (c r : Nat) : Bool :=
  decide (s.anchorRow y ≤ r ∧ r < s.anchorRow y + n.toNat ∧ s.anchorColumn x ≤ c ∧ c < s.anchorColumn x + 8) &&
    (s.readByte (s.i.toNat + (r - s.anchorRow y))).getLsbD (7 - (c - s.anchorColumn x))

/-- The sprite covers a lit pixel of the screen (45_display.md R605). -/
def State.spriteCollides (s : State) (x y n : Nibble) : Prop :=
  ∃ c r, c < 64 ∧ r < 32 ∧ s.spriteCovers x y n c r = true ∧ s.fb.pixel c r = true

/-! ## Sequences of instructions -/

/-- Instructions one after the other, each run by exec on the state the one before left. -/
def execAll : List Instr → State → Host.Outcome State Fault Refusal
  | [], s => .next s
  | i :: rest, s =>
    match exec i s with
    | .next t => execAll rest t
    | .fault f => .fault f
    | .refused r => .refused r

end Sys2Proof.Machine
end

