-- ==== Sys2Proof/Certificates/Slice0/Obligations.lean ====
section
/-! DEFINITION. The statements for the provers, from the spec's numbered rules. In a statement about `exec` the state given has
PC past the instruction's word (40_execution_loop.md R132). -/

open Sys2Proof Sys2Proof.Machine

/-! ## Decoding and encoding -/

/-- R101: the six fields of a word, each as the rule's formula gives it, and the overlap of nn and nnn. -/
def Obligations.FieldsFollowTheBitPositions : Prop :=
  ∀ w : Word,
    (fieldsOf w).op.toNat = w.toNat >>> 12 ∧
    (fieldsOf w).nnn.toNat = w.toNat &&& 0x0FFF ∧
    (fieldsOf w).nn.toNat = w.toNat &&& 0x00FF ∧
    (fieldsOf w).n.toNat = w.toNat &&& 0x000F ∧
    (fieldsOf w).x.toNat = (w.toNat >>> 8) &&& 0xF ∧
    (fieldsOf w).y.toNat = (w.toNat >>> 4) &&& 0xF ∧
    (fieldsOf w).nn = (fieldsOf w).y ++ (fieldsOf w).n ∧
    (fieldsOf w).nnn = (fieldsOf w).x ++ (fieldsOf w).y ++ (fieldsOf w).n

/-- Decoding an encoded instruction gives it back, for all 34 instructions and every operand value. -/
def Obligations.DecodeOfEncodeIsTheInstruction : Prop := ∀ i : Instr, decodeWord (encode i) = .ok i

/-- Every word that decodes is the encoding of what it decodes to: no word has a second reading. -/
def Obligations.EncodeOfDecodedWordIsTheWord : Prop := ∀ (w : Word) (i : Instr), decodeWord w = .ok i → encode i = w

/-- R104, R106: the decoder, which follows the keyed dispatch of R103, accepts exactly the words that match a row of the mask
and match table, and reads each as the instruction of that row. -/
def Obligations.DecoderAcceptsExactlyTheTableRows : Prop :=
  ∀ w : Word,
    ((∃ i, decodeWord w = .ok i) ↔ wordWellFormed w = true) ∧
    (∀ i, decodeWord w = .ok i → i.row ∈ opcodeRows ∧ i.row.fits w = true)

/-- Words written out from the rows of R104, one per family, and one refused word of each unimplemented space of R106. -/
def Obligations.SampleWordsDecode : Prop :=
  decodeWord 0x00E0 = .ok .cls ∧ decodeWord 0x00EE = .ok .ret ∧ decodeWord 0x1ABC = .ok (.jp 0xABC) ∧
  decodeWord 0x3A42 = .ok (.seImm 0xA 0x42) ∧ decodeWord 0x8AB6 = .ok (.shrReg 0xA 0xB) ∧
  decodeWord 0xD12F = .ok (.drw 0x1 0x2 0xF) ∧ decodeWord 0xE19E = .ok (.skp 0x1) ∧
  decodeWord 0xF165 = .ok (.loadRegs 0x1) ∧
  decodeWord 0x0123 = .error (.family0 0x0123) ∧ decodeWord 0x5121 = .error (.family5 0x5121) ∧
  decodeWord 0x8008 = .error (.family8 0x8008) ∧ decodeWord 0x9121 = .error (.family9 0x9121) ∧
  decodeWord 0xE19F = .error (.familyE 0xE19F) ∧ decodeWord 0xF0FF = .error (.familyF 0xF0FF)

/-! ## Fetch and the step -/

/-- R73: a fetched word has the byte at the lower address in bits 15:8 and the byte after it in bits 7:0. -/
def Obligations.FetchedWordIsBigEndian : Prop :=
  ∀ (s : State) (a : Nat),
    (s.readWord a).toNat = 256 * (s.readByte a).toNat + (s.readByte (a + 1)).toNat

/-- When the host's next transaction is a cpu tick and the bytes at PC decode to an instruction, the step is exec of it on the
state that the transaction is taken off, with PC past the word and the tick's random byte. A scheduled transaction is taken off
the schedule, a free one off the free sequence (the model's convention, assumptions 1 and 2). -/
def Obligations.StepRunsTheDecodedInstruction : Prop :=
  ∀ (s : State) (i : Instr) (rnd : Option Byte), s.pc.toNat < 0xFFF →
    decodeBytes [s.readByte s.pc.toNat, s.readByte (s.pc.toNat + 1)] = .ok (i, []) →
    s.transact (.cpuTick rnd) = exec i { s with pc := s.pc + 2, rnd := rnd, draws := s.draws + 1 } ∧
    (s.upcoming = .cpuTick rnd →
      step s = exec i { s.taken with pc := s.pc + 2, rnd := rnd, draws := s.draws + 1 }) ∧
    (∀ rest, s.schedule = .cpuTick rnd :: rest →
      step s = exec i { s with pc := s.pc + 2, rnd := rnd, draws := s.draws + 1, schedule := rest })

/-- R60, R61: a step runs the next transaction of the host's schedule and leaves the rest of it; where nothing is scheduled it
runs the next transaction of the free sequence (assumption 1). -/
def Obligations.StepRunsTheNextTransaction : Prop :=
  ∀ (s : State) (rest : List Transaction),
    (∀ rom, s.schedule = .init rom :: rest → step s = .next (State.init { s with schedule := rest } rom)) ∧
    (∀ b, s.schedule = .cpuTick b :: rest → step s = State.cpuTick { s with schedule := rest } b) ∧
    (s.schedule = .timerTick :: rest → step s = .next (State.timerTick { s with schedule := rest })) ∧
    (∀ k, s.schedule = .setKeys k :: rest → step s = .next { s with schedule := rest, keys := k }) ∧
    (s.schedule = [] → step s = State.transact { s with turns := s.turns + 1 } (Config.freeTransaction s.turns))

/-- R61, R809 (decision D2): the interleaving is open. For every infinite sequence of transactions and every k, the first k run
one after the other, and step runs them too: from the same state with those k scheduled before the rest it ends in the same
state. With nothing scheduled the run is that of the free sequence, of which nothing is known (assumption 1). -/
def Obligations.EveryInterleavingIsARun : Prop :=
  ∀ (f : Nat → Transaction) (k : Nat) (s : State),
    (∃ t, runUnder k f s = .next t ∧ runsTo k { s with schedule := (List.range k).map f ++ s.schedule } t) ∧
    (s.schedule = [] →
      ∃ t, runUnder k (fun n => Config.freeTransaction (s.turns + n)) s = .next t ∧
        runsTo k s { t with turns := s.turns + k })

/-- R135: a cpu tick whose word is no instruction reports the word and its address; PC keeps the +2 of its fetch and nothing
else of the record changes. -/
def Obligations.UnimplementedWordIsReported : Prop :=
  ∀ (s : State) (b : Byte), s.pc.toNat < 0xFFF → wordWellFormed (s.readWord s.pc.toNat) = false →
    s.cpuTick (some b) = .next { s with
      pc := s.pc + 2
      reports := s.reports ++ [⟨some s.pc, .unimplementedOpcode (s.readWord s.pc.toNat) s.pc⟩]
      rnd := some b
      draws := s.draws + 1 }

/-- R131 (decision D5): a fetch at PC of 0xFFF or more reports the first of PC and PC + 1 above 0xFFF; PC stays and nothing
else of the record changes. -/
def Obligations.OutOfRangeFetchIsReported : Prop :=
  ∀ (s : State) (b : Byte), 0xFFF ≤ s.pc.toNat →
    s.cpuTick (some b) = .next { s with
      reports := s.reports ++
        [⟨some s.pc, .outOfRange none .fetch (if s.pc.toNat = 0xFFF then 0x1000 else s.pc.toNat)⟩]
      rnd := some b
      draws := s.draws + 1 }

/-- R131 (decision D5): from such a PC every later cpu tick reports the same again, however many follow, whatever their random
bytes. -/
def Obligations.OutOfRangeFetchRepeatsForever : Prop :=
  ∀ (s : State) (bytes : List (Option Byte)) (rest : List Transaction), 0xFFF ≤ s.pc.toNat →
    s.schedule = bytes.map .cpuTick ++ rest →
    ∃ t, runsTo bytes.length s t ∧
      t = { s with
        reports := s.reports ++
          List.replicate bytes.length ⟨some s.pc, .outOfRange none .fetch (if s.pc.toNat = 0xFFF then 0x1000 else s.pc.toNat)⟩
        schedule := rest
        rnd := t.rnd
        draws := t.draws }

/-! ## Control flow -/

/-- R201: PC takes the zero-extended target; nothing else changes. -/
def Obligations.JumpGoesToItsTarget : Prop :=
  ∀ (nnn : Addr12) (s : State), ∃ t, exec (.jp nnn) s = .next t ∧ t.pc.toNat = nnn.toNat ∧ onlyPc s t

/-- R202: below 16 frames a call pushes the address after it and jumps; the other frames stay. -/
def Obligations.CallPushesAndJumps : Prop :=
  ∀ (nnn : Addr12) (s : State) (h : s.sp.val < 16), ∃ t, exec (.call nnn) s = .next t ∧
    t.pc.toNat = nnn.toNat ∧ t.sp.val = s.sp.val + 1 ∧ t.stack[s.sp.val] = s.pc ∧
    (∀ k : Fin 16, k.val ≠ s.sp.val → t.stack[k.val] = s.stack[k.val]) ∧ onlyStackAndPc s t

/-- R200: a return from a non-empty stack loads PC from the top frame and lowers SP; the frames keep their contents. -/
def Obligations.ReturnPopsIntoPc : Prop :=
  ∀ (s : State) (h : 0 < s.sp.val), ∃ t, exec .ret s = .next t ∧
    t.pc = s.stack[s.sp.val - 1] ∧ t.sp.val = s.sp.val - 1 ∧ t.stack = s.stack ∧ onlyStackAndPc s t

/-- R200, R202 (decisions D8, D9): a call with 16 frames is aborted with STACK_OVERFLOW, nothing pushed and no jump taken; a
return from an empty stack is aborted with STACK_UNDERFLOW, PC and SP as they were. -/
def Obligations.StackErrorsAreReported : Prop :=
  ∀ (nnn : Addr12) (s : State),
    (s.sp.val = 16 → ∃ t, exec (.call nnn) s = .next t ∧
      abortedWith (.stackOverflow (BitVec.ofNat 16 (0x2000 + nnn.toNat))) s t) ∧
    (s.sp.val = 0 → ∃ t, exec .ret s = .next t ∧ abortedWith (.stackUnderflow 0x00EE) s t)

/-- R35: calls nested to any depth the stack has room for are undone by as many returns, last first: PC and SP are back and
only the frames may differ. -/
def Obligations.NestedCallsReturnInReverse : Prop :=
  ∀ (targets : List Addr12) (s : State), s.sp.val + targets.length ≤ 16 →
    ∃ t, execAll (targets.map Instr.call ++ List.replicate targets.length Instr.ret) s = .next t ∧
      t = { s with stack := t.stack } ∧ ∀ k : Fin 16, k.val < s.sp.val → t.stack[k.val] = s.stack[k.val]

/-- R203 (decision D18): PC takes the exact sum of the target and V0, not masked to 12 bits. -/
def Obligations.JumpWithOffsetAddsV0 : Prop :=
  ∀ (nnn : Addr12) (s : State), ∃ t, exec (.jpV0 nnn) s = .next t ∧
    t.pc.toNat = nnn.toNat + (s.getV 0x0).toNat ∧ onlyPc s t

/-- R204, R205, R206, R207: 3xnn skips iff Vx = nn and 4xnn iff it is not; 5xy0 skips iff Vx = Vy and 9xy0 iff they differ; a
skip adds 2 to PC mod 2^16. -/
def Obligations.SkipsOnComparisons : Prop :=
  ∀ (x y : Nibble) (nn : Byte) (s : State),
    (∃ t, exec (.seImm x nn) s = .next t ∧ onlyPc s t ∧
      t.pc.toNat = if (s.getV x).toNat = nn.toNat then (s.pc.toNat + 2) % 65536 else s.pc.toNat) ∧
    (∃ t, exec (.sneImm x nn) s = .next t ∧ onlyPc s t ∧
      t.pc.toNat = if (s.getV x).toNat = nn.toNat then s.pc.toNat else (s.pc.toNat + 2) % 65536) ∧
    (∃ t, exec (.seReg x y) s = .next t ∧ onlyPc s t ∧
      t.pc.toNat = if (s.getV x).toNat = (s.getV y).toNat then (s.pc.toNat + 2) % 65536 else s.pc.toNat) ∧
    (∃ t, exec (.sneReg x y) s = .next t ∧ onlyPc s t ∧
      t.pc.toNat = if (s.getV x).toNat = (s.getV y).toNat then s.pc.toNat else (s.pc.toNat + 2) % 65536)

/-! ## Registers and ALU -/

/-- R300, R302: 6xnn loads nn and 8xy0 copies Vy into Vx; every other register stays. -/
def Obligations.LoadsWriteOneRegister : Prop :=
  ∀ (x y : Nibble) (nn : Byte) (s : State),
    (∃ t, exec (.ldImm x nn) s = .next t ∧ t.getV x = nn ∧ keepsRegistersBut [x] s t ∧ onlyRegisters s t) ∧
    (∃ t, exec (.ldReg x y) s = .next t ∧ t.getV x = s.getV y ∧ keepsRegistersBut [x] s t ∧ onlyRegisters s t)

/-- R301: Vx takes the sum mod 256 and no flag is written: every other register, VF too, stays. -/
def Obligations.AddImmediateWrapsWithoutFlag : Prop :=
  ∀ (x : Nibble) (nn : Byte) (s : State), ∃ t, exec (.addImm x nn) s = .next t ∧
    (t.getV x).toNat = ((s.getV x).toNat + nn.toNat) % 256 ∧ keepsRegistersBut [x] s t ∧ onlyRegisters s t

/-- R303, R304, R305 (decision D11): bit by bit OR, AND and XOR into Vx; every other register, VF too, stays. -/
def Obligations.BitwiseOperationsLeaveTheFlag : Prop :=
  ∀ (x y : Nibble) (s : State),
    (∃ t, exec (.orReg x y) s = .next t ∧ keepsRegistersBut [x] s t ∧ onlyRegisters s t ∧
      ∀ k, (t.getV x).getLsbD k = ((s.getV x).getLsbD k || (s.getV y).getLsbD k)) ∧
    (∃ t, exec (.andReg x y) s = .next t ∧ keepsRegistersBut [x] s t ∧ onlyRegisters s t ∧
      ∀ k, (t.getV x).getLsbD k = ((s.getV x).getLsbD k && (s.getV y).getLsbD k)) ∧
    (∃ t, exec (.xorReg x y) s = .next t ∧ keepsRegistersBut [x] s t ∧ onlyRegisters s t ∧
      ∀ k, (t.getV x).getLsbD k = ((s.getV x).getLsbD k ^^ (s.getV y).getLsbD k))

/-- R306: where x is not F, VF and Vx together are the exact 9-bit sum; where x is F (decision D12) VF ends holding the
carry. -/
def Obligations.AddWithCarryGivesTheNineBitSum : Prop :=
  ∀ (x y : Nibble) (s : State), ∃ t, exec (.addReg x y) s = .next t ∧
    (x ≠ 0xF → 256 * (t.getV 0xF).toNat + (t.getV x).toNat = (s.getV x).toNat + (s.getV y).toNat) ∧
    (x = 0xF → (t.getV 0xF).toNat = ((s.getV 0xF).toNat + (s.getV y).toNat) / 256) ∧
    keepsRegistersBut [x, 0xF] s t ∧ onlyRegisters s t

/-- R307, R309 (C4; decision D12 where x is F): the difference mod 256, and VF = 1 iff minuend > subtrahend, strictly,
written last. -/
def Obligations.SubtractionsSetNoBorrow : Prop :=
  ∀ (x y : Nibble) (s : State),
    (∃ t, exec (.subReg x y) s = .next t ∧
      (x ≠ 0xF → (t.getV x).toNat = ((s.getV x).toNat + 256 - (s.getV y).toNat) % 256) ∧
      (t.getV 0xF).toNat = (if (s.getV x).toNat > (s.getV y).toNat then 1 else 0) ∧
      keepsRegistersBut [x, 0xF] s t ∧ onlyRegisters s t) ∧
    (∃ t, exec (.subnReg x y) s = .next t ∧
      (x ≠ 0xF → (t.getV x).toNat = ((s.getV y).toNat + 256 - (s.getV x).toNat) % 256) ∧
      (t.getV 0xF).toNat = (if (s.getV y).toNat > (s.getV x).toNat then 1 else 0) ∧
      keepsRegistersBut [x, 0xF] s t ∧ onlyRegisters s t)

/-- R308, R310 (decision D34 where x is F): Vx is Vy halved, or Vy doubled mod 256, and VF the bit dropped; where x is F the
last step acts on the flag, so VF ends 0 after the right shift and 2 times the dropped bit after the left. -/
def Obligations.ShiftsTakeTheirValueFromVy : Prop :=
  ∀ (x y : Nibble) (s : State),
    (∃ t, exec (.shrReg x y) s = .next t ∧
      (x ≠ 0xF → (t.getV x).toNat = (s.getV y).toNat / 2 ∧ (t.getV 0xF).toNat = (s.getV y).toNat % 2) ∧
      (x = 0xF → t.getV 0xF = 0x00) ∧
      keepsRegistersBut [x, 0xF] s t ∧ onlyRegisters s t) ∧
    (∃ t, exec (.shlReg x y) s = .next t ∧
      (x ≠ 0xF → (t.getV x).toNat = (s.getV y).toNat * 2 % 256 ∧ (t.getV 0xF).toNat = (s.getV y).toNat / 128) ∧
      (x = 0xF → (t.getV 0xF).toNat = (s.getV y).toNat / 128 * 2) ∧
      keepsRegistersBut [x, 0xF] s t ∧ onlyRegisters s t)

/-- R311 (decision D24): Vx takes the tick's random byte under the mask nn; a cpu tick that is given the byte b uses b, and a
tick that is given none a free value (assumption 2). -/
def Obligations.RandomByteIsMasked : Prop :=
  ∀ (x : Nibble) (nn : Byte) (s : State),
    (∃ t, exec (.rnd x nn) s = .next t ∧ t.getV x = s.rand &&& nn ∧ keepsRegistersBut [x] s t ∧ onlyRegisters s t) ∧
    (∀ b, s.pc.toNat < 0xFFF → s.readWord s.pc.toNat = BitVec.ofNat 16 (0xC000 + 256 * x.toNat + nn.toNat) →
      ∃ t, s.cpuTick (some b) = .next t ∧ t.getV x = b &&& nn)

/-! ## Index register and memory -/

/-- R400: I takes the zero-extended nnn; nothing else changes. -/
def Obligations.LoadIndexTakesTheAddress : Prop :=
  ∀ (nnn : Addr12) (s : State), ∃ t, exec (.ldI nnn) s = .next t ∧ t.i.toNat = nnn.toNat ∧ onlyI s t

/-- R401, R402 (decisions D10, D16): Fx1E adds Vx to I mod 2^16, with no flag and no report; Fx29 sets I to 5 times Vx, not
masked to a digit. Nothing but I changes. -/
def Obligations.IndexComputationsFromVx : Prop :=
  ∀ (x : Nibble) (s : State),
    (∃ t, exec (.addI x) s = .next t ∧ t.i.toNat = (s.i.toNat + (s.getV x).toNat) % 65536 ∧ onlyI s t) ∧
    (∃ t, exec (.ldF x) s = .next t ∧ t.i.toNat = 5 * (s.getV x).toNat ∧ onlyI s t)

/-- R403: with I + 2 in range, the three bytes from I are the decimal digits of Vx, hundreds first; every other byte and every
register stay (I too, decision D17). -/
def Obligations.BcdStoresThreeDigits : Prop :=
  ∀ (x : Nibble) (s : State), s.i.toNat + 2 ≤ 0xFFF → ∃ t, exec (.ldB x) s = .next t ∧
    100 * (t.readByte s.i.toNat).toNat + 10 * (t.readByte (s.i.toNat + 1)).toNat +
      (t.readByte (s.i.toNat + 2)).toNat = (s.getV x).toNat ∧
    (t.readByte (s.i.toNat + 1)).toNat ≤ 9 ∧ (t.readByte (s.i.toNat + 2)).toNat ≤ 9 ∧
    (∀ a, a < s.i.toNat ∨ s.i.toNat + 2 < a → t.readByte a = s.readByte a) ∧ onlyMemory s t

/-- R404: with I + x in range, byte I + k is V[k] for k = 0..x; every other byte and every register stay (I too, decision
D17). -/
def Obligations.BlockStoreWritesV0ToVx : Prop :=
  ∀ (x : Nibble) (s : State), s.i.toNat + x.toNat ≤ 0xFFF → ∃ t, exec (.storeRegs x) s = .next t ∧
    (∀ k : Nibble, k.toNat ≤ x.toNat → t.readByte (s.i.toNat + k.toNat) = s.getV k) ∧
    (∀ a, a < s.i.toNat ∨ s.i.toNat + x.toNat < a → t.readByte a = s.readByte a) ∧ onlyMemory s t

/-- R405: with I + x in range, V[k] is byte I + k for k = 0..x; the registers above x and all of memory stay (I too, decision
D17). -/
def Obligations.BlockLoadReadsV0ToVx : Prop :=
  ∀ (x : Nibble) (s : State), s.i.toNat + x.toNat ≤ 0xFFF → ∃ t, exec (.loadRegs x) s = .next t ∧
    (∀ k : Nibble, k.toNat ≤ x.toNat → t.getV k = s.readByte (s.i.toNat + k.toNat)) ∧
    (∀ k : Nibble, x.toNat < k.toNat → t.getV k = s.getV k) ∧ onlyRegisters s t

/-- R76, R77 (decisions D3, D4, D14): a transfer or draw whose span reaches 0x1000 or more is aborted with OUT_OF_RANGE and the
lowest such address; no byte is moved and no register, I, VF or FB is written. -/
def Obligations.OutOfRangeTransfersAreReported : Prop :=
  ∀ (x y n : Nibble) (s : State),
    (0xFFF < s.i.toNat + 2 → ∃ t, exec (.ldB x) s = .next t ∧ abortedWith
      (.outOfRange (some (BitVec.ofNat 16 (0xF033 + 256 * x.toNat))) .write (max s.i.toNat 0x1000)) s t) ∧
    (0xFFF < s.i.toNat + x.toNat → ∃ t, exec (.storeRegs x) s = .next t ∧ abortedWith
      (.outOfRange (some (BitVec.ofNat 16 (0xF055 + 256 * x.toNat))) .write (max s.i.toNat 0x1000)) s t) ∧
    (0xFFF < s.i.toNat + x.toNat → ∃ t, exec (.loadRegs x) s = .next t ∧ abortedWith
      (.outOfRange (some (BitVec.ofNat 16 (0xF065 + 256 * x.toNat))) .read (max s.i.toNat 0x1000)) s t) ∧
    (n ≠ 0x0 → 0xFFF < s.i.toNat + n.toNat - 1 → ∃ t, exec (.drw x y n) s = .next t ∧ abortedWith
      (.outOfRange (some (BitVec.ofNat 16 (0xD000 + 256 * x.toNat + 16 * y.toNat + n.toNat))) .read
        (max s.i.toNat 0x1000)) s t)

/-- R405's round trip: a block store, then any change of the registers, then a block load with the same x restores V0..Vx. -/
def Obligations.BlockLoadRestoresABlockStore : Prop :=
  ∀ (x : Nibble) (s t u : State) (w : Vector Byte 16), s.i.toNat + x.toNat ≤ 0xFFF →
    exec (.storeRegs x) s = .next t → exec (.loadRegs x) { t with v := w } = .next u →
    ∀ k : Nibble, k.toNat ≤ x.toNat → u.getV k = s.getV k

/-! ## Timers and keys -/

/-- R501, R502: Fx07 reads DT into Vx and changes nothing else; Fx15 sets DT to Vx and changes nothing else. -/
def Obligations.DelayTimerIsReadAndSet : Prop :=
  ∀ (x : Nibble) (s : State),
    (∃ t, exec (.ldVxDt x) s = .next t ∧ t.getV x = s.dt ∧ keepsRegistersBut [x] s t ∧ onlyRegisters s t) ∧
    (∃ t, exec (.ldDtVx x) s = .next t ∧ t.dt = s.getV x ∧ onlyDt s t)

/-- R503 (decision D32: no sound output): ST takes Vx; nothing else changes. -/
def Obligations.SetSoundTimer : Prop :=
  ∀ (x : Nibble) (s : State), ∃ t, exec (.ldStVx x) s = .next t ∧ t.st = s.getV x ∧ onlySt s t

/-- R500: a timer tick lowers each timer by 1 unless it is 0, and touches nothing else. -/
def Obligations.TimerTickCountsDown : Prop :=
  ∀ s : State, ∃ t, s.transact .timerTick = .next t ∧
    t.dt.toNat = s.dt.toNat - 1 ∧ t.st.toNat = s.st.toNat - 1 ∧ t = { s with dt := t.dt, st := t.st }

/-- R500: after k timer ticks each timer is lower by k, and never below 0. -/
def Obligations.TimersNeverGoBelowZero : Prop :=
  ∀ (k : Nat) (s : State) (rest : List Transaction), s.schedule = List.replicate k .timerTick ++ rest →
    ∃ t, runsTo k s t ∧ t.dt.toNat = s.dt.toNat - k ∧ t.st.toNat = s.st.toNat - k ∧
      t = { s with dt := t.dt, st := t.st, schedule := rest }

/-- R504, R505: with Vx a key index, Ex9E skips iff that key is pressed and ExA1 iff it is not. -/
def Obligations.SkipsOnKey : Prop :=
  ∀ (x : Nibble) (s : State) (h : (s.getV x).toNat < 16),
    (∃ t, exec (.skp x) s = .next t ∧ onlyPc s t ∧
      t.pc.toNat = if s.keys[(s.getV x).toNat] = true then (s.pc.toNat + 2) % 65536 else s.pc.toNat) ∧
    (∃ t, exec (.sknp x) s = .next t ∧ onlyPc s t ∧
      t.pc.toNat = if s.keys[(s.getV x).toNat] = true then s.pc.toNat else (s.pc.toNat + 2) % 65536)

/-- R504, R505 (decision D15): with Vx above 0xF both are aborted with KEY_INDEX_OUT_OF_RANGE and do not skip. -/
def Obligations.KeyIndexAboveFifteenIsReported : Prop :=
  ∀ (x : Nibble) (s : State), 16 ≤ (s.getV x).toNat →
    (∃ t, exec (.skp x) s = .next t ∧
      abortedWith (.keyIndexOutOfRange (BitVec.ofNat 16 (0xE09E + 256 * x.toNat)) (s.getV x)) s t) ∧
    (∃ t, exec (.sknp x) s = .next t ∧
      abortedWith (.keyIndexOutOfRange (BitVec.ofNat 16 (0xE0A1 + 256 * x.toNat)) (s.getV x)) s t)

/-- R506 (decision D31): with a key pressed, Vx takes the lowest pressed key's index; with none, PC goes back by 2 mod 2^16 and
nothing else changes. -/
def Obligations.WaitKeyTakesTheLowestKeyOrRewinds : Prop :=
  ∀ (x : Nibble) (s : State),
    (∀ k : Fin 16, s.keys[k.val] = true → (∀ j : Fin 16, j < k → s.keys[j.val] = false) →
      ∃ t, exec (.ldVxK x) s = .next t ∧ (t.getV x).toNat = k.val ∧ keepsRegistersBut [x] s t ∧ onlyRegisters s t) ∧
    ((∀ k : Fin 16, s.keys[k.val] = false) →
      ∃ t, exec (.ldVxK x) s = .next t ∧ t.pc.toNat = (s.pc.toNat + 65534) % 65536 ∧ onlyPc s t)

/-- R808: without a key press a program waits in Fx0A for any number of cpu ticks, with its whole record unchanged. -/
def Obligations.WaitKeySpinsWithoutAKey : Prop :=
  ∀ (x : Nibble) (s : State) (bytes : List (Option Byte)) (rest : List Transaction),
    s.schedule = bytes.map .cpuTick ++ rest → s.pc.toNat < 0xFFF →
    s.readWord s.pc.toNat = BitVec.ofNat 16 (0xF00A + 256 * x.toNat) → (∀ j : Fin 16, s.keys[j.val] = false) →
    ∃ t, runsTo bytes.length s t ∧ t = { s with schedule := rest, rnd := t.rnd, draws := t.draws }

/-! ## Display -/

/-- R601: every pixel is 0 and one render notification of the dark screen is raised; nothing else changes. -/
def Obligations.ClearScreenDarkensAndRenders : Prop :=
  ∀ s : State, ∃ t, exec .cls s = .next t ∧ (∀ c r, t.fb.pixel c r = false) ∧
    t.renders = s.renders ++ [⟨64, 32, t.fb⟩] ∧ t = { s with fb := t.fb, renders := t.renders } ∧ keepsMemory s t

/-- R602, R604, R605 (decisions D13, D14): with n = 0 or its span in range, a draw flips exactly the pixels on the screen that
the sprite covers, VF is 1 iff one of them was lit and 0 otherwise, and one render notification is raised. -/
def Obligations.DrawFlipsTheCoveredPixels : Prop :=
  ∀ (x y n : Nibble) (s : State), n = 0x0 ∨ s.i.toNat + n.toNat - 1 ≤ 0xFFF →
    ∃ t, exec (.drw x y n) s = .next t ∧
      (∀ c r, c < 64 → r < 32 → t.fb.pixel c r = (s.fb.pixel c r ^^ s.spriteCovers x y n c r)) ∧
      (s.spriteCollides x y n → t.getV 0xF = 0x01) ∧ (¬ s.spriteCollides x y n → t.getV 0xF = 0x00) ∧
      keepsRegistersBut [0xF] s t ∧ t.renders = s.renders ++ [⟨64, 32, t.fb⟩] ∧ onlyDisplay s t

/-- R602: drawing the same sprite again at the same place gives the screen back. -/
def Obligations.DrawingTwiceRestoresTheScreen : Prop :=
  ∀ (x y n : Nibble) (s t u : State), n = 0x0 ∨ s.i.toNat + n.toNat - 1 ≤ 0xFFF →
    exec (.drw x y n) s = .next t → exec (.drw x y n) { t with v := s.v } = .next u → u.fb = s.fb

/-! ## Initialisation -/

/-- R45: what `init` leaves in every element but memory and the log. I = 0 and KEY all false are the spec's decision D20
(assumption 7); the model's own fields are named in assumption 30. -/
def Obligations.InitGivesTheResetValues : Prop :=
  ∀ (s : State) (rom : List Byte),
    (∀ x, (s.init rom).getV x = 0x00) ∧ (s.init rom).pc.toNat = 0x200 ∧ (s.init rom).i = 0x0000 ∧
    (∀ k : Fin 16, (s.init rom).stack[k.val] = 0x0000) ∧ (s.init rom).sp.val = 0 ∧
    (s.init rom).dt = 0x00 ∧ (s.init rom).st = 0x00 ∧ (∀ k : Fin 16, (s.init rom).keys[k.val] = false) ∧
    (∀ c r, (s.init rom).fb.pixel c r = false) ∧ (s.init rom).renders = [] ∧
    (s.init rom).font = s.font ∧ (s.init rom).schedule = s.schedule

/-- R45, R801: a ROM of at most 3584 bytes stands from 0x200 on, FONT at 0x000..0x04F, every other byte is 0, and the log is
empty. -/
def Obligations.InitPlacesFontAndRom : Prop :=
  ∀ (s : State) (rom : List Byte), rom.length ≤ 3584 →
    (∀ k : Fin 80, (s.init rom).readByte k.val = s.font[k.val]) ∧
    (∀ (k : Nat) (h : k < rom.length), (s.init rom).readByte (0x200 + k) = rom[k]) ∧
    (∀ a, (0x50 ≤ a ∧ a < 0x200) ∨ 0x200 + rom.length ≤ a → (s.init rom).readByte a = 0x00) ∧
    (s.init rom).reports = []

/-- R801 (decision D30): a longer ROM is rejected whole: the machine is as after `init` with an empty ROM, with
ROM_TOO_LARGE logged. -/
def Obligations.OversizedRomIsRejectedWhole : Prop :=
  ∀ (s : State) (rom : List Byte), 3584 < rom.length →
    s.init rom = { s.init [] with reports := [⟨none, .romTooLarge rom.length⟩] }

/-- R45: the machine after reset is the machine after `init` with an empty ROM, with FONT at its default (assumption 3). -/
def Obligations.ResetIsInitOfTheEmptyRom : Prop :=
  State.reset.init [] = State.reset ∧ State.reset.pc.toNat = 0x200 ∧ State.reset.sp.val = 0 ∧
  (∀ a, 0x50 ≤ a → State.reset.readByte a = 0x00) ∧ State.reset.reports = []

/-! ## The whole machine -/

/-- R702: no report is fatal: from every state the step answers a next state. -/
def Obligations.EveryStepGoesOn : Prop := ∀ s : State, ∃ t, step s = .next t

/-- R62: a cpu tick adds no report or exactly one, which carries the tick's fetch address. -/
def Obligations.AtMostOneReportPerTick : Prop :=
  ∀ (s t : State) (rnd : Option Byte), s.cpuTick rnd = .next t →
    t.reports = s.reports ∨ ∃ r, t.reports = s.reports ++ [⟨some s.pc, r⟩]

/-- R136 (decision D4): an instruction that raises a report leaves everything else as its fetch left it, and renders
nothing. -/
def Obligations.AbortedInstructionChangesNothingElse : Prop :=
  ∀ (i : Instr) (s t : State), exec i s = .next t → t.reports ≠ s.reports → t = { s with reports := t.reports }

/-- R63: a cpu tick raises one render notification, with (64, 32) and FB as it stands after the tick, exactly when it executed
00E0 or Dxyn to completion (without a report), and none otherwise. -/
def Obligations.RenderExactlyOnCompletedClearOrDraw : Prop :=
  ∀ (s t : State) (rnd : Option Byte), s.cpuTick rnd = .next t →
    let completed := s.pc.toNat < 0xFFF ∧ t.reports = s.reports ∧
      (decodeWord (s.readWord s.pc.toNat) = .ok .cls ∨
        ∃ x y n, decodeWord (s.readWord s.pc.toNat) = .ok (.drw x y n))
    (completed → t.renders = s.renders ++ [⟨64, 32, t.fb⟩]) ∧ (¬ completed → t.renders = s.renders)

/-- R35 to R38, R41: who writes the control state: SP and the frames only 2nnn and 00EE, I only Annn, Fx1E and Fx29, DT only
Fx15, ST only Fx18, and no instruction writes KEY or the host's inputs. -/
def Obligations.WritersOfTheControlState : Prop :=
  ∀ (i : Instr) (s t : State), exec i s = .next t →
    ((t.sp ≠ s.sp ∨ t.stack ≠ s.stack) → i = .ret ∨ ∃ nnn, i = .call nnn) ∧
    (t.i ≠ s.i → (∃ nnn, i = .ldI nnn) ∨ (∃ x, i = .addI x) ∨ ∃ x, i = .ldF x) ∧
    (t.dt ≠ s.dt → ∃ x, i = .ldDtVx x) ∧ (t.st ≠ s.st → ∃ x, i = .ldStVx x) ∧
    t.keys = s.keys ∧ t.font = s.font ∧ t.schedule = s.schedule ∧ t.turns = s.turns

/-- R39, R70: who writes FB and memory: FB only 00E0 and Dxyn, a byte of memory only Fx33 in I..I+2 and Fx55 in I..I+x. -/
def Obligations.WritersOfScreenAndMemory : Prop :=
  ∀ (i : Instr) (s t : State), exec i s = .next t →
    (t.fb ≠ s.fb → i = .cls ∨ ∃ x y n, i = .drw x y n) ∧
    (∀ a, t.readByte a ≠ s.readByte a →
      (∃ x, i = .ldB x ∧ s.i.toNat ≤ a ∧ a ≤ s.i.toNat + 2) ∨
      (∃ x, i = .storeRegs x ∧ s.i.toNat ≤ a ∧ a ≤ s.i.toNat + x.toNat))

/-- R32 (decisions D10, D11): VF changes only by the six flag writers, or as the ordinary destination F of an instruction that
writes its register x. -/
def Obligations.WritersOfTheFlagRegister : Prop :=
  ∀ (i : Instr) (s t : State), exec i s = .next t → t.getV 0xF ≠ s.getV 0xF →
    (∃ x y, i = .addReg x y ∨ i = .subReg x y ∨ i = .shrReg x y ∨ i = .subnReg x y ∨ i = .shlReg x y) ∨
    (∃ x y n, i = .drw x y n) ∨
    (∃ nn, i = .ldImm 0xF nn ∨ i = .addImm 0xF nn ∨ i = .rnd 0xF nn) ∨
    (∃ y, i = .ldReg 0xF y ∨ i = .orReg 0xF y ∨ i = .andReg 0xF y ∨ i = .xorReg 0xF y) ∨
    i = .ldVxDt 0xF ∨ i = .ldVxK 0xF ∨ i = .loadRegs 0xF

/-- R704: the report log only grows, except in `init`, which alone clears it. -/
def Obligations.ReportLogOnlyGrows : Prop :=
  ∀ s t : State, step s = .next t → (∀ rom, s.upcoming ≠ .init rom) → s.reports <+: t.reports

/-- Every step keeps the memory's canonical form, in which equal memories are equal data and no address of 0x1000 or more is
ever written (R76). -/
def Obligations.StepKeepsMemoryCanonical : Prop :=
  ∀ s t : State, s.memoryCanonical → step s = .next t → t.memoryCanonical

/-- Decision D19: every step keeps PC at most 0x10FE and every frame at most 0x1000, so no addition to PC ever wraps. -/
def Obligations.StepKeepsPcBounded : Prop :=
  ∀ s t : State, s.pcBounded → step s = .next t → t.pcBounded

/-- Both invariants hold at reset. -/
def Obligations.ResetMeetsTheInvariants : Prop := State.reset.memoryCanonical ∧ State.reset.pcBounded
end

