-- ==== Sys2Proof/Laws/Decode.lean ====
section
/-! SUPPORT. The fields of the words the encoder builds. -/

namespace Sys2Proof

theorem fieldsOf_wordXYN (op x y n : Nibble) :
    fieldsOf (wordXYN op x y n) = ⟨op, x, y, n, y ++ n, x ++ y ++ n⟩ := by
  simp only [fieldsOf, wordXYN, Fields.mk.injEq]
  refine ⟨?_, ?_, ?_, ?_, ?_, ?_⟩ <;> ext k hk <;> grind

theorem fieldsOf_wordXNN (op x : Nibble) (nn : Byte) :
    fieldsOf (wordXNN op x nn) = ⟨op, x, nn.extractLsb' 4 4, nn.extractLsb' 0 4, nn, x ++ nn⟩ := by
  simp only [fieldsOf, wordXNN, Fields.mk.injEq]
  refine ⟨?_, ?_, ?_, ?_, ?_, ?_⟩ <;> ext k hk <;> grind

theorem fieldsOf_wordNNN (op : Nibble) (nnn : Addr12) :
    fieldsOf (wordNNN op nnn) =
      ⟨op, nnn.extractLsb' 8 4, nnn.extractLsb' 4 4, nnn.extractLsb' 0 4, nnn.extractLsb' 0 8, nnn⟩ := by
  simp only [fieldsOf, wordNNN, Fields.mk.injEq]
  refine ⟨?_, ?_, ?_, ?_, ?_, ?_⟩ <;> ext k hk <;> grind

/-- A word is made up of its fields op, x, y and n. -/
theorem wordXYN_fieldsOf (w : Word) :
    wordXYN (fieldsOf w).op (fieldsOf w).x (fieldsOf w).y (fieldsOf w).n = w := by
  simp only [wordXYN, fieldsOf]
  ext k hk
  grind

/-- A word is made up of its fields op, x and nn. -/
theorem wordXNN_fieldsOf (w : Word) : wordXNN (fieldsOf w).op (fieldsOf w).x (fieldsOf w).nn = w := by
  simp only [wordXNN, fieldsOf]
  ext k hk
  grind

/-- A word is made up of its fields op and nnn. -/
theorem wordNNN_fieldsOf (w : Word) : wordNNN (fieldsOf w).op (fieldsOf w).nnn = w := by
  simp only [wordNNN, fieldsOf]
  ext k hk
  grind

/-- Concatenation as arithmetic: the left part weighs 2 to the width of the right. -/
theorem toNat_concat {m n : Nat} (a : BitVec m) (b : BitVec n) : (a ++ b).toNat = 2 ^ n * a.toNat + b.toNat := by
  rw [BitVec.toNat_append, Nat.shiftLeft_eq, Nat.mul_comm, ← Nat.two_pow_add_eq_or_of_lt b.isLt]

/-- The value of a word with fields op, x, y and n. -/
theorem toNat_wordXYN (op x y n : Nibble) :
    (wordXYN op x y n).toNat = 4096 * op.toNat + 256 * x.toNat + 16 * y.toNat + n.toNat := by
  simp only [wordXYN, toNat_concat]
  omega

/-- The value of a word with fields op, x and nn. -/
theorem toNat_wordXNN (op x : Nibble) (nn : Byte) :
    (wordXNN op x nn).toNat = 4096 * op.toNat + 256 * x.toNat + nn.toNat := by
  simp only [wordXNN, toNat_concat]
  omega

/-- The value of a word with fields op and nnn. -/
theorem toNat_wordNNN (op : Nibble) (nnn : Addr12) :
    (wordNNN op nnn).toNat = 4096 * op.toNat + nnn.toNat := by
  simp only [wordNNN, toNat_concat]
  omega

/-- The value of a big-endian pair of bytes. -/
theorem toNat_bigEndian (hi lo : Byte) : (bigEndian hi lo).toNat = 256 * hi.toNat + lo.toNat := by
  simp only [bigEndian, toNat_concat]
  omega

/-- The two bytes of a word in memory order make it up again. -/
theorem bigEndian_bytes (w : Word) : bigEndian (highByte w) (lowByte w) = w := by
  simp only [bigEndian, highByte, lowByte]
  ext k hk
  grind

end Sys2Proof
end

