-- ==== Sys2Proof/Laws/State.lean ====
section
/-! SUPPORT. The fields of an updated state: one lemma per field per named update, true by rfl, and the same for the
accessors (a register, a memory byte, a key, the random byte) that read the state. -/

namespace Sys2Proof.Machine

/-! ### setV -/

@[simp] theorem State.setV_v (s : State) (x : Nibble) (b : Byte) : (s.setV x b).v = s.v.set x.toNat b := rfl
@[simp] theorem State.setV_i (s : State) (x : Nibble) (b : Byte) : (s.setV x b).i = s.i := rfl
@[simp] theorem State.setV_pc (s : State) (x : Nibble) (b : Byte) : (s.setV x b).pc = s.pc := rfl
@[simp] theorem State.setV_stack (s : State) (x : Nibble) (b : Byte) : (s.setV x b).stack = s.stack := rfl
@[simp] theorem State.setV_sp (s : State) (x : Nibble) (b : Byte) : (s.setV x b).sp = s.sp := rfl
@[simp] theorem State.setV_dt (s : State) (x : Nibble) (b : Byte) : (s.setV x b).dt = s.dt := rfl
@[simp] theorem State.setV_st (s : State) (x : Nibble) (b : Byte) : (s.setV x b).st = s.st := rfl
@[simp] theorem State.setV_keys (s : State) (x : Nibble) (b : Byte) : (s.setV x b).keys = s.keys := rfl
@[simp] theorem State.setV_fb (s : State) (x : Nibble) (b : Byte) : (s.setV x b).fb = s.fb := rfl
@[simp] theorem State.setV_mem (s : State) (x : Nibble) (b : Byte) : (s.setV x b).mem = s.mem := rfl
@[simp] theorem State.setV_font (s : State) (x : Nibble) (b : Byte) : (s.setV x b).font = s.font := rfl
@[simp] theorem State.setV_reports (s : State) (x : Nibble) (b : Byte) : (s.setV x b).reports = s.reports := rfl
@[simp] theorem State.setV_renders (s : State) (x : Nibble) (b : Byte) : (s.setV x b).renders = s.renders := rfl
@[simp] theorem State.setV_schedule (s : State) (x : Nibble) (b : Byte) : (s.setV x b).schedule = s.schedule := rfl
@[simp] theorem State.setV_turns (s : State) (x : Nibble) (b : Byte) : (s.setV x b).turns = s.turns := rfl
@[simp] theorem State.setV_rnd (s : State) (x : Nibble) (b : Byte) : (s.setV x b).rnd = s.rnd := rfl
@[simp] theorem State.setV_draws (s : State) (x : Nibble) (b : Byte) : (s.setV x b).draws = s.draws := rfl
@[simp] theorem State.readByte_setV (s : State) (x : Nibble) (b : Byte) (c : Nat) : (s.setV x b).readByte c = s.readByte c := rfl
@[simp] theorem State.key_setV (s : State) (x : Nibble) (b : Byte) (k : Fin 16) : (s.setV x b).key k = s.key k := rfl
@[simp] theorem State.rand_setV (s : State) (x : Nibble) (b : Byte) : (s.setV x b).rand = s.rand := rfl

/-! ### setFlag -/

@[simp] theorem State.setFlag_v (s : State) (f : Byte) : (s.setFlag f).v = s.v.set 15 f := rfl
@[simp] theorem State.setFlag_i (s : State) (f : Byte) : (s.setFlag f).i = s.i := rfl
@[simp] theorem State.setFlag_pc (s : State) (f : Byte) : (s.setFlag f).pc = s.pc := rfl
@[simp] theorem State.setFlag_stack (s : State) (f : Byte) : (s.setFlag f).stack = s.stack := rfl
@[simp] theorem State.setFlag_sp (s : State) (f : Byte) : (s.setFlag f).sp = s.sp := rfl
@[simp] theorem State.setFlag_dt (s : State) (f : Byte) : (s.setFlag f).dt = s.dt := rfl
@[simp] theorem State.setFlag_st (s : State) (f : Byte) : (s.setFlag f).st = s.st := rfl
@[simp] theorem State.setFlag_keys (s : State) (f : Byte) : (s.setFlag f).keys = s.keys := rfl
@[simp] theorem State.setFlag_fb (s : State) (f : Byte) : (s.setFlag f).fb = s.fb := rfl
@[simp] theorem State.setFlag_mem (s : State) (f : Byte) : (s.setFlag f).mem = s.mem := rfl
@[simp] theorem State.setFlag_font (s : State) (f : Byte) : (s.setFlag f).font = s.font := rfl
@[simp] theorem State.setFlag_reports (s : State) (f : Byte) : (s.setFlag f).reports = s.reports := rfl
@[simp] theorem State.setFlag_renders (s : State) (f : Byte) : (s.setFlag f).renders = s.renders := rfl
@[simp] theorem State.setFlag_schedule (s : State) (f : Byte) : (s.setFlag f).schedule = s.schedule := rfl
@[simp] theorem State.setFlag_turns (s : State) (f : Byte) : (s.setFlag f).turns = s.turns := rfl
@[simp] theorem State.setFlag_rnd (s : State) (f : Byte) : (s.setFlag f).rnd = s.rnd := rfl
@[simp] theorem State.setFlag_draws (s : State) (f : Byte) : (s.setFlag f).draws = s.draws := rfl
@[simp] theorem State.readByte_setFlag (s : State) (f : Byte) (c : Nat) : (s.setFlag f).readByte c = s.readByte c := rfl
@[simp] theorem State.key_setFlag (s : State) (f : Byte) (k : Fin 16) : (s.setFlag f).key k = s.key k := rfl
@[simp] theorem State.rand_setFlag (s : State) (f : Byte) : (s.setFlag f).rand = s.rand := rfl

/-! ### setI -/

@[simp] theorem State.setI_v (s : State) (a : Word) : (s.setI a).v = s.v := rfl
@[simp] theorem State.setI_i (s : State) (a : Word) : (s.setI a).i = a := rfl
@[simp] theorem State.setI_pc (s : State) (a : Word) : (s.setI a).pc = s.pc := rfl
@[simp] theorem State.setI_stack (s : State) (a : Word) : (s.setI a).stack = s.stack := rfl
@[simp] theorem State.setI_sp (s : State) (a : Word) : (s.setI a).sp = s.sp := rfl
@[simp] theorem State.setI_dt (s : State) (a : Word) : (s.setI a).dt = s.dt := rfl
@[simp] theorem State.setI_st (s : State) (a : Word) : (s.setI a).st = s.st := rfl
@[simp] theorem State.setI_keys (s : State) (a : Word) : (s.setI a).keys = s.keys := rfl
@[simp] theorem State.setI_fb (s : State) (a : Word) : (s.setI a).fb = s.fb := rfl
@[simp] theorem State.setI_mem (s : State) (a : Word) : (s.setI a).mem = s.mem := rfl
@[simp] theorem State.setI_font (s : State) (a : Word) : (s.setI a).font = s.font := rfl
@[simp] theorem State.setI_reports (s : State) (a : Word) : (s.setI a).reports = s.reports := rfl
@[simp] theorem State.setI_renders (s : State) (a : Word) : (s.setI a).renders = s.renders := rfl
@[simp] theorem State.setI_schedule (s : State) (a : Word) : (s.setI a).schedule = s.schedule := rfl
@[simp] theorem State.setI_turns (s : State) (a : Word) : (s.setI a).turns = s.turns := rfl
@[simp] theorem State.setI_rnd (s : State) (a : Word) : (s.setI a).rnd = s.rnd := rfl
@[simp] theorem State.setI_draws (s : State) (a : Word) : (s.setI a).draws = s.draws := rfl
@[simp] theorem State.getV_setI (s : State) (a : Word) (q : Nibble) : (s.setI a).getV q = s.getV q := rfl
@[simp] theorem State.readByte_setI (s : State) (a : Word) (c : Nat) : (s.setI a).readByte c = s.readByte c := rfl
@[simp] theorem State.key_setI (s : State) (a : Word) (k : Fin 16) : (s.setI a).key k = s.key k := rfl
@[simp] theorem State.rand_setI (s : State) (a : Word) : (s.setI a).rand = s.rand := rfl

/-! ### setPc -/

@[simp] theorem State.setPc_v (s : State) (a : Word) : (s.setPc a).v = s.v := rfl
@[simp] theorem State.setPc_i (s : State) (a : Word) : (s.setPc a).i = s.i := rfl
@[simp] theorem State.setPc_pc (s : State) (a : Word) : (s.setPc a).pc = a := rfl
@[simp] theorem State.setPc_stack (s : State) (a : Word) : (s.setPc a).stack = s.stack := rfl
@[simp] theorem State.setPc_sp (s : State) (a : Word) : (s.setPc a).sp = s.sp := rfl
@[simp] theorem State.setPc_dt (s : State) (a : Word) : (s.setPc a).dt = s.dt := rfl
@[simp] theorem State.setPc_st (s : State) (a : Word) : (s.setPc a).st = s.st := rfl
@[simp] theorem State.setPc_keys (s : State) (a : Word) : (s.setPc a).keys = s.keys := rfl
@[simp] theorem State.setPc_fb (s : State) (a : Word) : (s.setPc a).fb = s.fb := rfl
@[simp] theorem State.setPc_mem (s : State) (a : Word) : (s.setPc a).mem = s.mem := rfl
@[simp] theorem State.setPc_font (s : State) (a : Word) : (s.setPc a).font = s.font := rfl
@[simp] theorem State.setPc_reports (s : State) (a : Word) : (s.setPc a).reports = s.reports := rfl
@[simp] theorem State.setPc_renders (s : State) (a : Word) : (s.setPc a).renders = s.renders := rfl
@[simp] theorem State.setPc_schedule (s : State) (a : Word) : (s.setPc a).schedule = s.schedule := rfl
@[simp] theorem State.setPc_turns (s : State) (a : Word) : (s.setPc a).turns = s.turns := rfl
@[simp] theorem State.setPc_rnd (s : State) (a : Word) : (s.setPc a).rnd = s.rnd := rfl
@[simp] theorem State.setPc_draws (s : State) (a : Word) : (s.setPc a).draws = s.draws := rfl
@[simp] theorem State.getV_setPc (s : State) (a : Word) (q : Nibble) : (s.setPc a).getV q = s.getV q := rfl
@[simp] theorem State.readByte_setPc (s : State) (a : Word) (c : Nat) : (s.setPc a).readByte c = s.readByte c := rfl
@[simp] theorem State.key_setPc (s : State) (a : Word) (k : Fin 16) : (s.setPc a).key k = s.key k := rfl
@[simp] theorem State.rand_setPc (s : State) (a : Word) : (s.setPc a).rand = s.rand := rfl

/-! ### skip -/

@[simp] theorem State.skip_v (s : State) : (s.skip).v = s.v := rfl
@[simp] theorem State.skip_i (s : State) : (s.skip).i = s.i := rfl
@[simp] theorem State.skip_pc (s : State) : (s.skip).pc = s.pc + 2 := rfl
@[simp] theorem State.skip_stack (s : State) : (s.skip).stack = s.stack := rfl
@[simp] theorem State.skip_sp (s : State) : (s.skip).sp = s.sp := rfl
@[simp] theorem State.skip_dt (s : State) : (s.skip).dt = s.dt := rfl
@[simp] theorem State.skip_st (s : State) : (s.skip).st = s.st := rfl
@[simp] theorem State.skip_keys (s : State) : (s.skip).keys = s.keys := rfl
@[simp] theorem State.skip_fb (s : State) : (s.skip).fb = s.fb := rfl
@[simp] theorem State.skip_mem (s : State) : (s.skip).mem = s.mem := rfl
@[simp] theorem State.skip_font (s : State) : (s.skip).font = s.font := rfl
@[simp] theorem State.skip_reports (s : State) : (s.skip).reports = s.reports := rfl
@[simp] theorem State.skip_renders (s : State) : (s.skip).renders = s.renders := rfl
@[simp] theorem State.skip_schedule (s : State) : (s.skip).schedule = s.schedule := rfl
@[simp] theorem State.skip_turns (s : State) : (s.skip).turns = s.turns := rfl
@[simp] theorem State.skip_rnd (s : State) : (s.skip).rnd = s.rnd := rfl
@[simp] theorem State.skip_draws (s : State) : (s.skip).draws = s.draws := rfl
@[simp] theorem State.getV_skip (s : State) (q : Nibble) : (s.skip).getV q = s.getV q := rfl
@[simp] theorem State.readByte_skip (s : State) (c : Nat) : (s.skip).readByte c = s.readByte c := rfl
@[simp] theorem State.key_skip (s : State) (k : Fin 16) : (s.skip).key k = s.key k := rfl
@[simp] theorem State.rand_skip (s : State) : (s.skip).rand = s.rand := rfl

/-! ### rewind -/

@[simp] theorem State.rewind_v (s : State) : (s.rewind).v = s.v := rfl
@[simp] theorem State.rewind_i (s : State) : (s.rewind).i = s.i := rfl
@[simp] theorem State.rewind_pc (s : State) : (s.rewind).pc = s.pc - 2 := rfl
@[simp] theorem State.rewind_stack (s : State) : (s.rewind).stack = s.stack := rfl
@[simp] theorem State.rewind_sp (s : State) : (s.rewind).sp = s.sp := rfl
@[simp] theorem State.rewind_dt (s : State) : (s.rewind).dt = s.dt := rfl
@[simp] theorem State.rewind_st (s : State) : (s.rewind).st = s.st := rfl
@[simp] theorem State.rewind_keys (s : State) : (s.rewind).keys = s.keys := rfl
@[simp] theorem State.rewind_fb (s : State) : (s.rewind).fb = s.fb := rfl
@[simp] theorem State.rewind_mem (s : State) : (s.rewind).mem = s.mem := rfl
@[simp] theorem State.rewind_font (s : State) : (s.rewind).font = s.font := rfl
@[simp] theorem State.rewind_reports (s : State) : (s.rewind).reports = s.reports := rfl
@[simp] theorem State.rewind_renders (s : State) : (s.rewind).renders = s.renders := rfl
@[simp] theorem State.rewind_schedule (s : State) : (s.rewind).schedule = s.schedule := rfl
@[simp] theorem State.rewind_turns (s : State) : (s.rewind).turns = s.turns := rfl
@[simp] theorem State.rewind_rnd (s : State) : (s.rewind).rnd = s.rnd := rfl
@[simp] theorem State.rewind_draws (s : State) : (s.rewind).draws = s.draws := rfl
@[simp] theorem State.getV_rewind (s : State) (q : Nibble) : (s.rewind).getV q = s.getV q := rfl
@[simp] theorem State.readByte_rewind (s : State) (c : Nat) : (s.rewind).readByte c = s.readByte c := rfl
@[simp] theorem State.key_rewind (s : State) (k : Fin 16) : (s.rewind).key k = s.key k := rfl
@[simp] theorem State.rand_rewind (s : State) : (s.rewind).rand = s.rand := rfl

/-! ### advance -/

@[simp] theorem State.advance_v (s : State) : (s.advance).v = s.v := rfl
@[simp] theorem State.advance_i (s : State) : (s.advance).i = s.i := rfl
@[simp] theorem State.advance_pc (s : State) : (s.advance).pc = s.pc + 2 := rfl
@[simp] theorem State.advance_stack (s : State) : (s.advance).stack = s.stack := rfl
@[simp] theorem State.advance_sp (s : State) : (s.advance).sp = s.sp := rfl
@[simp] theorem State.advance_dt (s : State) : (s.advance).dt = s.dt := rfl
@[simp] theorem State.advance_st (s : State) : (s.advance).st = s.st := rfl
@[simp] theorem State.advance_keys (s : State) : (s.advance).keys = s.keys := rfl
@[simp] theorem State.advance_fb (s : State) : (s.advance).fb = s.fb := rfl
@[simp] theorem State.advance_mem (s : State) : (s.advance).mem = s.mem := rfl
@[simp] theorem State.advance_font (s : State) : (s.advance).font = s.font := rfl
@[simp] theorem State.advance_reports (s : State) : (s.advance).reports = s.reports := rfl
@[simp] theorem State.advance_renders (s : State) : (s.advance).renders = s.renders := rfl
@[simp] theorem State.advance_schedule (s : State) : (s.advance).schedule = s.schedule := rfl
@[simp] theorem State.advance_turns (s : State) : (s.advance).turns = s.turns := rfl
@[simp] theorem State.advance_rnd (s : State) : (s.advance).rnd = s.rnd := rfl
@[simp] theorem State.advance_draws (s : State) : (s.advance).draws = s.draws := rfl
@[simp] theorem State.getV_advance (s : State) (q : Nibble) : (s.advance).getV q = s.getV q := rfl
@[simp] theorem State.readByte_advance (s : State) (c : Nat) : (s.advance).readByte c = s.readByte c := rfl
@[simp] theorem State.key_advance (s : State) (k : Fin 16) : (s.advance).key k = s.key k := rfl
@[simp] theorem State.rand_advance (s : State) : (s.advance).rand = s.rand := rfl

/-! ### setDt -/

@[simp] theorem State.setDt_v (s : State) (b : Byte) : (s.setDt b).v = s.v := rfl
@[simp] theorem State.setDt_i (s : State) (b : Byte) : (s.setDt b).i = s.i := rfl
@[simp] theorem State.setDt_pc (s : State) (b : Byte) : (s.setDt b).pc = s.pc := rfl
@[simp] theorem State.setDt_stack (s : State) (b : Byte) : (s.setDt b).stack = s.stack := rfl
@[simp] theorem State.setDt_sp (s : State) (b : Byte) : (s.setDt b).sp = s.sp := rfl
@[simp] theorem State.setDt_dt (s : State) (b : Byte) : (s.setDt b).dt = b := rfl
@[simp] theorem State.setDt_st (s : State) (b : Byte) : (s.setDt b).st = s.st := rfl
@[simp] theorem State.setDt_keys (s : State) (b : Byte) : (s.setDt b).keys = s.keys := rfl
@[simp] theorem State.setDt_fb (s : State) (b : Byte) : (s.setDt b).fb = s.fb := rfl
@[simp] theorem State.setDt_mem (s : State) (b : Byte) : (s.setDt b).mem = s.mem := rfl
@[simp] theorem State.setDt_font (s : State) (b : Byte) : (s.setDt b).font = s.font := rfl
@[simp] theorem State.setDt_reports (s : State) (b : Byte) : (s.setDt b).reports = s.reports := rfl
@[simp] theorem State.setDt_renders (s : State) (b : Byte) : (s.setDt b).renders = s.renders := rfl
@[simp] theorem State.setDt_schedule (s : State) (b : Byte) : (s.setDt b).schedule = s.schedule := rfl
@[simp] theorem State.setDt_turns (s : State) (b : Byte) : (s.setDt b).turns = s.turns := rfl
@[simp] theorem State.setDt_rnd (s : State) (b : Byte) : (s.setDt b).rnd = s.rnd := rfl
@[simp] theorem State.setDt_draws (s : State) (b : Byte) : (s.setDt b).draws = s.draws := rfl
@[simp] theorem State.getV_setDt (s : State) (b : Byte) (q : Nibble) : (s.setDt b).getV q = s.getV q := rfl
@[simp] theorem State.readByte_setDt (s : State) (b : Byte) (c : Nat) : (s.setDt b).readByte c = s.readByte c := rfl
@[simp] theorem State.key_setDt (s : State) (b : Byte) (k : Fin 16) : (s.setDt b).key k = s.key k := rfl
@[simp] theorem State.rand_setDt (s : State) (b : Byte) : (s.setDt b).rand = s.rand := rfl

/-! ### setSt -/

@[simp] theorem State.setSt_v (s : State) (b : Byte) : (s.setSt b).v = s.v := rfl
@[simp] theorem State.setSt_i (s : State) (b : Byte) : (s.setSt b).i = s.i := rfl
@[simp] theorem State.setSt_pc (s : State) (b : Byte) : (s.setSt b).pc = s.pc := rfl
@[simp] theorem State.setSt_stack (s : State) (b : Byte) : (s.setSt b).stack = s.stack := rfl
@[simp] theorem State.setSt_sp (s : State) (b : Byte) : (s.setSt b).sp = s.sp := rfl
@[simp] theorem State.setSt_dt (s : State) (b : Byte) : (s.setSt b).dt = s.dt := rfl
@[simp] theorem State.setSt_st (s : State) (b : Byte) : (s.setSt b).st = b := rfl
@[simp] theorem State.setSt_keys (s : State) (b : Byte) : (s.setSt b).keys = s.keys := rfl
@[simp] theorem State.setSt_fb (s : State) (b : Byte) : (s.setSt b).fb = s.fb := rfl
@[simp] theorem State.setSt_mem (s : State) (b : Byte) : (s.setSt b).mem = s.mem := rfl
@[simp] theorem State.setSt_font (s : State) (b : Byte) : (s.setSt b).font = s.font := rfl
@[simp] theorem State.setSt_reports (s : State) (b : Byte) : (s.setSt b).reports = s.reports := rfl
@[simp] theorem State.setSt_renders (s : State) (b : Byte) : (s.setSt b).renders = s.renders := rfl
@[simp] theorem State.setSt_schedule (s : State) (b : Byte) : (s.setSt b).schedule = s.schedule := rfl
@[simp] theorem State.setSt_turns (s : State) (b : Byte) : (s.setSt b).turns = s.turns := rfl
@[simp] theorem State.setSt_rnd (s : State) (b : Byte) : (s.setSt b).rnd = s.rnd := rfl
@[simp] theorem State.setSt_draws (s : State) (b : Byte) : (s.setSt b).draws = s.draws := rfl
@[simp] theorem State.getV_setSt (s : State) (b : Byte) (q : Nibble) : (s.setSt b).getV q = s.getV q := rfl
@[simp] theorem State.readByte_setSt (s : State) (b : Byte) (c : Nat) : (s.setSt b).readByte c = s.readByte c := rfl
@[simp] theorem State.key_setSt (s : State) (b : Byte) (k : Fin 16) : (s.setSt b).key k = s.key k := rfl
@[simp] theorem State.rand_setSt (s : State) (b : Byte) : (s.setSt b).rand = s.rand := rfl

/-! ### setKeys -/

@[simp] theorem State.setKeys_v (s : State) (k : Vector Bool 16) : (s.setKeys k).v = s.v := rfl
@[simp] theorem State.setKeys_i (s : State) (k : Vector Bool 16) : (s.setKeys k).i = s.i := rfl
@[simp] theorem State.setKeys_pc (s : State) (k : Vector Bool 16) : (s.setKeys k).pc = s.pc := rfl
@[simp] theorem State.setKeys_stack (s : State) (k : Vector Bool 16) : (s.setKeys k).stack = s.stack := rfl
@[simp] theorem State.setKeys_sp (s : State) (k : Vector Bool 16) : (s.setKeys k).sp = s.sp := rfl
@[simp] theorem State.setKeys_dt (s : State) (k : Vector Bool 16) : (s.setKeys k).dt = s.dt := rfl
@[simp] theorem State.setKeys_st (s : State) (k : Vector Bool 16) : (s.setKeys k).st = s.st := rfl
@[simp] theorem State.setKeys_keys (s : State) (k : Vector Bool 16) : (s.setKeys k).keys = k := rfl
@[simp] theorem State.setKeys_fb (s : State) (k : Vector Bool 16) : (s.setKeys k).fb = s.fb := rfl
@[simp] theorem State.setKeys_mem (s : State) (k : Vector Bool 16) : (s.setKeys k).mem = s.mem := rfl
@[simp] theorem State.setKeys_font (s : State) (k : Vector Bool 16) : (s.setKeys k).font = s.font := rfl
@[simp] theorem State.setKeys_reports (s : State) (k : Vector Bool 16) : (s.setKeys k).reports = s.reports := rfl
@[simp] theorem State.setKeys_renders (s : State) (k : Vector Bool 16) : (s.setKeys k).renders = s.renders := rfl
@[simp] theorem State.setKeys_schedule (s : State) (k : Vector Bool 16) : (s.setKeys k).schedule = s.schedule := rfl
@[simp] theorem State.setKeys_turns (s : State) (k : Vector Bool 16) : (s.setKeys k).turns = s.turns := rfl
@[simp] theorem State.setKeys_rnd (s : State) (k : Vector Bool 16) : (s.setKeys k).rnd = s.rnd := rfl
@[simp] theorem State.setKeys_draws (s : State) (k : Vector Bool 16) : (s.setKeys k).draws = s.draws := rfl
@[simp] theorem State.getV_setKeys (s : State) (k : Vector Bool 16) (q : Nibble) : (s.setKeys k).getV q = s.getV q := rfl
@[simp] theorem State.readByte_setKeys (s : State) (k : Vector Bool 16) (c : Nat) : (s.setKeys k).readByte c = s.readByte c := rfl
@[simp] theorem State.rand_setKeys (s : State) (k : Vector Bool 16) : (s.setKeys k).rand = s.rand := rfl

/-! ### setFb -/

@[simp] theorem State.setFb_v (s : State) (f : Framebuffer) : (s.setFb f).v = s.v := rfl
@[simp] theorem State.setFb_i (s : State) (f : Framebuffer) : (s.setFb f).i = s.i := rfl
@[simp] theorem State.setFb_pc (s : State) (f : Framebuffer) : (s.setFb f).pc = s.pc := rfl
@[simp] theorem State.setFb_stack (s : State) (f : Framebuffer) : (s.setFb f).stack = s.stack := rfl
@[simp] theorem State.setFb_sp (s : State) (f : Framebuffer) : (s.setFb f).sp = s.sp := rfl
@[simp] theorem State.setFb_dt (s : State) (f : Framebuffer) : (s.setFb f).dt = s.dt := rfl
@[simp] theorem State.setFb_st (s : State) (f : Framebuffer) : (s.setFb f).st = s.st := rfl
@[simp] theorem State.setFb_keys (s : State) (f : Framebuffer) : (s.setFb f).keys = s.keys := rfl
@[simp] theorem State.setFb_fb (s : State) (f : Framebuffer) : (s.setFb f).fb = f := rfl
@[simp] theorem State.setFb_mem (s : State) (f : Framebuffer) : (s.setFb f).mem = s.mem := rfl
@[simp] theorem State.setFb_font (s : State) (f : Framebuffer) : (s.setFb f).font = s.font := rfl
@[simp] theorem State.setFb_reports (s : State) (f : Framebuffer) : (s.setFb f).reports = s.reports := rfl
@[simp] theorem State.setFb_renders (s : State) (f : Framebuffer) : (s.setFb f).renders = s.renders := rfl
@[simp] theorem State.setFb_schedule (s : State) (f : Framebuffer) : (s.setFb f).schedule = s.schedule := rfl
@[simp] theorem State.setFb_turns (s : State) (f : Framebuffer) : (s.setFb f).turns = s.turns := rfl
@[simp] theorem State.setFb_rnd (s : State) (f : Framebuffer) : (s.setFb f).rnd = s.rnd := rfl
@[simp] theorem State.setFb_draws (s : State) (f : Framebuffer) : (s.setFb f).draws = s.draws := rfl
@[simp] theorem State.getV_setFb (s : State) (f : Framebuffer) (q : Nibble) : (s.setFb f).getV q = s.getV q := rfl
@[simp] theorem State.readByte_setFb (s : State) (f : Framebuffer) (c : Nat) : (s.setFb f).readByte c = s.readByte c := rfl
@[simp] theorem State.key_setFb (s : State) (f : Framebuffer) (k : Fin 16) : (s.setFb f).key k = s.key k := rfl
@[simp] theorem State.rand_setFb (s : State) (f : Framebuffer) : (s.setFb f).rand = s.rand := rfl

/-! ### writeByte -/

@[simp] theorem State.writeByte_v (s : State) (a : Nat) (b : Byte) : (s.writeByte a b).v = s.v := rfl
@[simp] theorem State.writeByte_i (s : State) (a : Nat) (b : Byte) : (s.writeByte a b).i = s.i := rfl
@[simp] theorem State.writeByte_pc (s : State) (a : Nat) (b : Byte) : (s.writeByte a b).pc = s.pc := rfl
@[simp] theorem State.writeByte_stack (s : State) (a : Nat) (b : Byte) : (s.writeByte a b).stack = s.stack := rfl
@[simp] theorem State.writeByte_sp (s : State) (a : Nat) (b : Byte) : (s.writeByte a b).sp = s.sp := rfl
@[simp] theorem State.writeByte_dt (s : State) (a : Nat) (b : Byte) : (s.writeByte a b).dt = s.dt := rfl
@[simp] theorem State.writeByte_st (s : State) (a : Nat) (b : Byte) : (s.writeByte a b).st = s.st := rfl
@[simp] theorem State.writeByte_keys (s : State) (a : Nat) (b : Byte) : (s.writeByte a b).keys = s.keys := rfl
@[simp] theorem State.writeByte_fb (s : State) (a : Nat) (b : Byte) : (s.writeByte a b).fb = s.fb := rfl
@[simp] theorem State.writeByte_mem (s : State) (a : Nat) (b : Byte) : (s.writeByte a b).mem = Memory.put s.mem a b (Memory.unlisted s.font a) := rfl
@[simp] theorem State.writeByte_font (s : State) (a : Nat) (b : Byte) : (s.writeByte a b).font = s.font := rfl
@[simp] theorem State.writeByte_reports (s : State) (a : Nat) (b : Byte) : (s.writeByte a b).reports = s.reports := rfl
@[simp] theorem State.writeByte_renders (s : State) (a : Nat) (b : Byte) : (s.writeByte a b).renders = s.renders := rfl
@[simp] theorem State.writeByte_schedule (s : State) (a : Nat) (b : Byte) : (s.writeByte a b).schedule = s.schedule := rfl
@[simp] theorem State.writeByte_turns (s : State) (a : Nat) (b : Byte) : (s.writeByte a b).turns = s.turns := rfl
@[simp] theorem State.writeByte_rnd (s : State) (a : Nat) (b : Byte) : (s.writeByte a b).rnd = s.rnd := rfl
@[simp] theorem State.writeByte_draws (s : State) (a : Nat) (b : Byte) : (s.writeByte a b).draws = s.draws := rfl
@[simp] theorem State.getV_writeByte (s : State) (a : Nat) (b : Byte) (q : Nibble) : (s.writeByte a b).getV q = s.getV q := rfl
@[simp] theorem State.key_writeByte (s : State) (a : Nat) (b : Byte) (k : Fin 16) : (s.writeByte a b).key k = s.key k := rfl
@[simp] theorem State.rand_writeByte (s : State) (a : Nat) (b : Byte) : (s.writeByte a b).rand = s.rand := rfl

/-! ### logReport -/

@[simp] theorem State.logReport_v (s : State) (a : Option Word) (r : Report) : (s.logReport a r).v = s.v := rfl
@[simp] theorem State.logReport_i (s : State) (a : Option Word) (r : Report) : (s.logReport a r).i = s.i := rfl
@[simp] theorem State.logReport_pc (s : State) (a : Option Word) (r : Report) : (s.logReport a r).pc = s.pc := rfl
@[simp] theorem State.logReport_stack (s : State) (a : Option Word) (r : Report) : (s.logReport a r).stack = s.stack := rfl
@[simp] theorem State.logReport_sp (s : State) (a : Option Word) (r : Report) : (s.logReport a r).sp = s.sp := rfl
@[simp] theorem State.logReport_dt (s : State) (a : Option Word) (r : Report) : (s.logReport a r).dt = s.dt := rfl
@[simp] theorem State.logReport_st (s : State) (a : Option Word) (r : Report) : (s.logReport a r).st = s.st := rfl
@[simp] theorem State.logReport_keys (s : State) (a : Option Word) (r : Report) : (s.logReport a r).keys = s.keys := rfl
@[simp] theorem State.logReport_fb (s : State) (a : Option Word) (r : Report) : (s.logReport a r).fb = s.fb := rfl
@[simp] theorem State.logReport_mem (s : State) (a : Option Word) (r : Report) : (s.logReport a r).mem = s.mem := rfl
@[simp] theorem State.logReport_font (s : State) (a : Option Word) (r : Report) : (s.logReport a r).font = s.font := rfl
@[simp] theorem State.logReport_reports (s : State) (a : Option Word) (r : Report) : (s.logReport a r).reports = s.reports ++ [⟨a, r⟩] := rfl
@[simp] theorem State.logReport_renders (s : State) (a : Option Word) (r : Report) : (s.logReport a r).renders = s.renders := rfl
@[simp] theorem State.logReport_schedule (s : State) (a : Option Word) (r : Report) : (s.logReport a r).schedule = s.schedule := rfl
@[simp] theorem State.logReport_turns (s : State) (a : Option Word) (r : Report) : (s.logReport a r).turns = s.turns := rfl
@[simp] theorem State.logReport_rnd (s : State) (a : Option Word) (r : Report) : (s.logReport a r).rnd = s.rnd := rfl
@[simp] theorem State.logReport_draws (s : State) (a : Option Word) (r : Report) : (s.logReport a r).draws = s.draws := rfl
@[simp] theorem State.getV_logReport (s : State) (a : Option Word) (r : Report) (q : Nibble) : (s.logReport a r).getV q = s.getV q := rfl
@[simp] theorem State.readByte_logReport (s : State) (a : Option Word) (r : Report) (c : Nat) : (s.logReport a r).readByte c = s.readByte c := rfl
@[simp] theorem State.key_logReport (s : State) (a : Option Word) (r : Report) (k : Fin 16) : (s.logReport a r).key k = s.key k := rfl
@[simp] theorem State.rand_logReport (s : State) (a : Option Word) (r : Report) : (s.logReport a r).rand = s.rand := rfl

/-! ### flagFrom -/

@[simp] theorem State.flagFrom_v (s : State) (x : Nibble) (f : Byte → Byte) : (s.flagFrom x f).v = s.v.set 15 (f (s.getV x)) := rfl
@[simp] theorem State.flagFrom_i (s : State) (x : Nibble) (f : Byte → Byte) : (s.flagFrom x f).i = s.i := rfl
@[simp] theorem State.flagFrom_pc (s : State) (x : Nibble) (f : Byte → Byte) : (s.flagFrom x f).pc = s.pc := rfl
@[simp] theorem State.flagFrom_stack (s : State) (x : Nibble) (f : Byte → Byte) : (s.flagFrom x f).stack = s.stack := rfl
@[simp] theorem State.flagFrom_sp (s : State) (x : Nibble) (f : Byte → Byte) : (s.flagFrom x f).sp = s.sp := rfl
@[simp] theorem State.flagFrom_dt (s : State) (x : Nibble) (f : Byte → Byte) : (s.flagFrom x f).dt = s.dt := rfl
@[simp] theorem State.flagFrom_st (s : State) (x : Nibble) (f : Byte → Byte) : (s.flagFrom x f).st = s.st := rfl
@[simp] theorem State.flagFrom_keys (s : State) (x : Nibble) (f : Byte → Byte) : (s.flagFrom x f).keys = s.keys := rfl
@[simp] theorem State.flagFrom_fb (s : State) (x : Nibble) (f : Byte → Byte) : (s.flagFrom x f).fb = s.fb := rfl
@[simp] theorem State.flagFrom_mem (s : State) (x : Nibble) (f : Byte → Byte) : (s.flagFrom x f).mem = s.mem := rfl
@[simp] theorem State.flagFrom_font (s : State) (x : Nibble) (f : Byte → Byte) : (s.flagFrom x f).font = s.font := rfl
@[simp] theorem State.flagFrom_reports (s : State) (x : Nibble) (f : Byte → Byte) : (s.flagFrom x f).reports = s.reports := rfl
@[simp] theorem State.flagFrom_renders (s : State) (x : Nibble) (f : Byte → Byte) : (s.flagFrom x f).renders = s.renders := rfl
@[simp] theorem State.flagFrom_schedule (s : State) (x : Nibble) (f : Byte → Byte) : (s.flagFrom x f).schedule = s.schedule := rfl
@[simp] theorem State.flagFrom_turns (s : State) (x : Nibble) (f : Byte → Byte) : (s.flagFrom x f).turns = s.turns := rfl
@[simp] theorem State.flagFrom_rnd (s : State) (x : Nibble) (f : Byte → Byte) : (s.flagFrom x f).rnd = s.rnd := rfl
@[simp] theorem State.flagFrom_draws (s : State) (x : Nibble) (f : Byte → Byte) : (s.flagFrom x f).draws = s.draws := rfl
@[simp] theorem State.readByte_flagFrom (s : State) (x : Nibble) (f : Byte → Byte) (c : Nat) : (s.flagFrom x f).readByte c = s.readByte c := rfl
@[simp] theorem State.key_flagFrom (s : State) (x : Nibble) (f : Byte → Byte) (k : Fin 16) : (s.flagFrom x f).key k = s.key k := rfl
@[simp] theorem State.rand_flagFrom (s : State) (x : Nibble) (f : Byte → Byte) : (s.flagFrom x f).rand = s.rand := rfl

/-! ### updateV -/

@[simp] theorem State.updateV_v (s : State) (x : Nibble) (f : Byte → Byte) : (s.updateV x f).v = s.v.set x.toNat (f (s.getV x)) := rfl
@[simp] theorem State.updateV_i (s : State) (x : Nibble) (f : Byte → Byte) : (s.updateV x f).i = s.i := rfl
@[simp] theorem State.updateV_pc (s : State) (x : Nibble) (f : Byte → Byte) : (s.updateV x f).pc = s.pc := rfl
@[simp] theorem State.updateV_stack (s : State) (x : Nibble) (f : Byte → Byte) : (s.updateV x f).stack = s.stack := rfl
@[simp] theorem State.updateV_sp (s : State) (x : Nibble) (f : Byte → Byte) : (s.updateV x f).sp = s.sp := rfl
@[simp] theorem State.updateV_dt (s : State) (x : Nibble) (f : Byte → Byte) : (s.updateV x f).dt = s.dt := rfl
@[simp] theorem State.updateV_st (s : State) (x : Nibble) (f : Byte → Byte) : (s.updateV x f).st = s.st := rfl
@[simp] theorem State.updateV_keys (s : State) (x : Nibble) (f : Byte → Byte) : (s.updateV x f).keys = s.keys := rfl
@[simp] theorem State.updateV_fb (s : State) (x : Nibble) (f : Byte → Byte) : (s.updateV x f).fb = s.fb := rfl
@[simp] theorem State.updateV_mem (s : State) (x : Nibble) (f : Byte → Byte) : (s.updateV x f).mem = s.mem := rfl
@[simp] theorem State.updateV_font (s : State) (x : Nibble) (f : Byte → Byte) : (s.updateV x f).font = s.font := rfl
@[simp] theorem State.updateV_reports (s : State) (x : Nibble) (f : Byte → Byte) : (s.updateV x f).reports = s.reports := rfl
@[simp] theorem State.updateV_renders (s : State) (x : Nibble) (f : Byte → Byte) : (s.updateV x f).renders = s.renders := rfl
@[simp] theorem State.updateV_schedule (s : State) (x : Nibble) (f : Byte → Byte) : (s.updateV x f).schedule = s.schedule := rfl
@[simp] theorem State.updateV_turns (s : State) (x : Nibble) (f : Byte → Byte) : (s.updateV x f).turns = s.turns := rfl
@[simp] theorem State.updateV_rnd (s : State) (x : Nibble) (f : Byte → Byte) : (s.updateV x f).rnd = s.rnd := rfl
@[simp] theorem State.updateV_draws (s : State) (x : Nibble) (f : Byte → Byte) : (s.updateV x f).draws = s.draws := rfl
@[simp] theorem State.readByte_updateV (s : State) (x : Nibble) (f : Byte → Byte) (c : Nat) : (s.updateV x f).readByte c = s.readByte c := rfl
@[simp] theorem State.key_updateV (s : State) (x : Nibble) (f : Byte → Byte) (k : Fin 16) : (s.updateV x f).key k = s.key k := rfl
@[simp] theorem State.rand_updateV (s : State) (x : Nibble) (f : Byte → Byte) : (s.updateV x f).rand = s.rand := rfl

/-! ### render -/

@[simp] theorem State.render_v (s : State) : (s.render).v = s.v := rfl
@[simp] theorem State.render_i (s : State) : (s.render).i = s.i := rfl
@[simp] theorem State.render_pc (s : State) : (s.render).pc = s.pc := rfl
@[simp] theorem State.render_stack (s : State) : (s.render).stack = s.stack := rfl
@[simp] theorem State.render_sp (s : State) : (s.render).sp = s.sp := rfl
@[simp] theorem State.render_dt (s : State) : (s.render).dt = s.dt := rfl
@[simp] theorem State.render_st (s : State) : (s.render).st = s.st := rfl
@[simp] theorem State.render_keys (s : State) : (s.render).keys = s.keys := rfl
@[simp] theorem State.render_fb (s : State) : (s.render).fb = s.fb := rfl
@[simp] theorem State.render_mem (s : State) : (s.render).mem = s.mem := rfl
@[simp] theorem State.render_font (s : State) : (s.render).font = s.font := rfl
@[simp] theorem State.render_reports (s : State) : (s.render).reports = s.reports := rfl
@[simp] theorem State.render_renders (s : State) : (s.render).renders = s.renders ++ [⟨64, 32, s.fb⟩] := rfl
@[simp] theorem State.render_schedule (s : State) : (s.render).schedule = s.schedule := rfl
@[simp] theorem State.render_turns (s : State) : (s.render).turns = s.turns := rfl
@[simp] theorem State.render_rnd (s : State) : (s.render).rnd = s.rnd := rfl
@[simp] theorem State.render_draws (s : State) : (s.render).draws = s.draws := rfl
@[simp] theorem State.getV_render (s : State) (q : Nibble) : (s.render).getV q = s.getV q := rfl
@[simp] theorem State.readByte_render (s : State) (c : Nat) : (s.render).readByte c = s.readByte c := rfl
@[simp] theorem State.key_render (s : State) (k : Fin 16) : (s.render).key k = s.key k := rfl
@[simp] theorem State.rand_render (s : State) : (s.render).rand = s.rand := rfl

/-! ### beginTick -/

@[simp] theorem State.beginTick_v (s : State) (r : Option Byte) : (s.beginTick r).v = s.v := rfl
@[simp] theorem State.beginTick_i (s : State) (r : Option Byte) : (s.beginTick r).i = s.i := rfl
@[simp] theorem State.beginTick_pc (s : State) (r : Option Byte) : (s.beginTick r).pc = s.pc := rfl
@[simp] theorem State.beginTick_stack (s : State) (r : Option Byte) : (s.beginTick r).stack = s.stack := rfl
@[simp] theorem State.beginTick_sp (s : State) (r : Option Byte) : (s.beginTick r).sp = s.sp := rfl
@[simp] theorem State.beginTick_dt (s : State) (r : Option Byte) : (s.beginTick r).dt = s.dt := rfl
@[simp] theorem State.beginTick_st (s : State) (r : Option Byte) : (s.beginTick r).st = s.st := rfl
@[simp] theorem State.beginTick_keys (s : State) (r : Option Byte) : (s.beginTick r).keys = s.keys := rfl
@[simp] theorem State.beginTick_fb (s : State) (r : Option Byte) : (s.beginTick r).fb = s.fb := rfl
@[simp] theorem State.beginTick_mem (s : State) (r : Option Byte) : (s.beginTick r).mem = s.mem := rfl
@[simp] theorem State.beginTick_font (s : State) (r : Option Byte) : (s.beginTick r).font = s.font := rfl
@[simp] theorem State.beginTick_reports (s : State) (r : Option Byte) : (s.beginTick r).reports = s.reports := rfl
@[simp] theorem State.beginTick_renders (s : State) (r : Option Byte) : (s.beginTick r).renders = s.renders := rfl
@[simp] theorem State.beginTick_schedule (s : State) (r : Option Byte) : (s.beginTick r).schedule = s.schedule := rfl
@[simp] theorem State.beginTick_turns (s : State) (r : Option Byte) : (s.beginTick r).turns = s.turns := rfl
@[simp] theorem State.beginTick_rnd (s : State) (r : Option Byte) : (s.beginTick r).rnd = r := rfl
@[simp] theorem State.beginTick_draws (s : State) (r : Option Byte) : (s.beginTick r).draws = s.draws + 1 := rfl
@[simp] theorem State.getV_beginTick (s : State) (r : Option Byte) (q : Nibble) : (s.beginTick r).getV q = s.getV q := rfl
@[simp] theorem State.readByte_beginTick (s : State) (r : Option Byte) (c : Nat) : (s.beginTick r).readByte c = s.readByte c := rfl
@[simp] theorem State.key_beginTick (s : State) (r : Option Byte) (k : Fin 16) : (s.beginTick r).key k = s.key k := rfl

/-! ### timerTick -/

@[simp] theorem State.timerTick_v (s : State) : (s.timerTick).v = s.v := rfl
@[simp] theorem State.timerTick_i (s : State) : (s.timerTick).i = s.i := rfl
@[simp] theorem State.timerTick_pc (s : State) : (s.timerTick).pc = s.pc := rfl
@[simp] theorem State.timerTick_stack (s : State) : (s.timerTick).stack = s.stack := rfl
@[simp] theorem State.timerTick_sp (s : State) : (s.timerTick).sp = s.sp := rfl
@[simp] theorem State.timerTick_dt (s : State) : (s.timerTick).dt = if s.dt = 0x00 then 0x00 else s.dt - 1 := rfl
@[simp] theorem State.timerTick_st (s : State) : (s.timerTick).st = if s.st = 0x00 then 0x00 else s.st - 1 := rfl
@[simp] theorem State.timerTick_keys (s : State) : (s.timerTick).keys = s.keys := rfl
@[simp] theorem State.timerTick_fb (s : State) : (s.timerTick).fb = s.fb := rfl
@[simp] theorem State.timerTick_mem (s : State) : (s.timerTick).mem = s.mem := rfl
@[simp] theorem State.timerTick_font (s : State) : (s.timerTick).font = s.font := rfl
@[simp] theorem State.timerTick_reports (s : State) : (s.timerTick).reports = s.reports := rfl
@[simp] theorem State.timerTick_renders (s : State) : (s.timerTick).renders = s.renders := rfl
@[simp] theorem State.timerTick_schedule (s : State) : (s.timerTick).schedule = s.schedule := rfl
@[simp] theorem State.timerTick_turns (s : State) : (s.timerTick).turns = s.turns := rfl
@[simp] theorem State.timerTick_rnd (s : State) : (s.timerTick).rnd = s.rnd := rfl
@[simp] theorem State.timerTick_draws (s : State) : (s.timerTick).draws = s.draws := rfl
@[simp] theorem State.getV_timerTick (s : State) (q : Nibble) : (s.timerTick).getV q = s.getV q := rfl
@[simp] theorem State.readByte_timerTick (s : State) (c : Nat) : (s.timerTick).readByte c = s.readByte c := rfl
@[simp] theorem State.key_timerTick (s : State) (k : Fin 16) : (s.timerTick).key k = s.key k := rfl
@[simp] theorem State.rand_timerTick (s : State) : (s.timerTick).rand = s.rand := rfl

/-! ### taken: the next transaction taken off the host's sequence -/

@[simp] theorem State.taken_v (s : State) : s.taken.v = s.v := by unfold State.taken; split <;> rfl
@[simp] theorem State.taken_i (s : State) : s.taken.i = s.i := by unfold State.taken; split <;> rfl
@[simp] theorem State.taken_pc (s : State) : s.taken.pc = s.pc := by unfold State.taken; split <;> rfl
@[simp] theorem State.taken_stack (s : State) : s.taken.stack = s.stack := by unfold State.taken; split <;> rfl
@[simp] theorem State.taken_sp (s : State) : s.taken.sp = s.sp := by unfold State.taken; split <;> rfl
@[simp] theorem State.taken_dt (s : State) : s.taken.dt = s.dt := by unfold State.taken; split <;> rfl
@[simp] theorem State.taken_st (s : State) : s.taken.st = s.st := by unfold State.taken; split <;> rfl
@[simp] theorem State.taken_keys (s : State) : s.taken.keys = s.keys := by unfold State.taken; split <;> rfl
@[simp] theorem State.taken_fb (s : State) : s.taken.fb = s.fb := by unfold State.taken; split <;> rfl
@[simp] theorem State.taken_mem (s : State) : s.taken.mem = s.mem := by unfold State.taken; split <;> rfl
@[simp] theorem State.taken_font (s : State) : s.taken.font = s.font := by unfold State.taken; split <;> rfl
@[simp] theorem State.taken_reports (s : State) : s.taken.reports = s.reports := by unfold State.taken; split <;> rfl
@[simp] theorem State.taken_renders (s : State) : s.taken.renders = s.renders := by unfold State.taken; split <;> rfl
@[simp] theorem State.taken_rnd (s : State) : s.taken.rnd = s.rnd := by unfold State.taken; split <;> rfl
@[simp] theorem State.taken_draws (s : State) : s.taken.draws = s.draws := by unfold State.taken; split <;> rfl
@[simp] theorem State.getV_taken (s : State) (q : Nibble) : s.taken.getV q = s.getV q := by unfold State.taken; split <;> rfl
@[simp] theorem State.readByte_taken (s : State) (c : Nat) : s.taken.readByte c = s.readByte c := by unfold State.taken; split <;> rfl
@[simp] theorem State.key_taken (s : State) (k : Fin 16) : s.taken.key k = s.key k := by unfold State.taken; split <;> rfl
@[simp] theorem State.rand_taken (s : State) : s.taken.rand = s.rand := by unfold State.taken; split <;> rfl
@[simp] theorem State.readWord_taken (s : State) (a : Nat) : s.taken.readWord a = s.readWord a := by unfold State.taken; split <;> rfl

/-- Taking a transaction changes the schedule and the index of the free sequence alone. -/
theorem State.taken_eq (s : State) : s.taken = { s with schedule := s.taken.schedule, turns := s.taken.turns } := by
  unfold State.taken; split <;> rfl

end Sys2Proof.Machine
end

