-- ==== Sys2Proof/Laws/Memory.lean ====
section
/-! SUPPORT. Memory: a read after a write, and the canonical form that every memory operation keeps. -/

namespace Sys2Proof.Machine

/-- A byte stored is the byte read back; every other address reads as before. It needs no canonical form. -/
theorem Memory.get_put (m : List Host.Cell) (a c : Nat) (b d d' : Byte) (hd : c = a → d' = d) :
    Memory.get (Memory.put m a b d) c d' = if c = a then b else Memory.get m c d' := by
  have below : (m.filter (fun e => e.1 < a)).find? (fun e => e.1 == c) =
      if c < a then m.find? (fun e => e.1 == c) else none := by
    rw [List.find?_filter]
    split
    · congr 1; funext e; by_cases he : e.1 = c <;> simp [he]; omega
    · rw [List.find?_eq_none]; intro e _; simp; omega
  have above : (m.filter (fun e => a < e.1)).find? (fun e => e.1 == c) =
      if a < c then m.find? (fun e => e.1 == c) else none := by
    rw [List.find?_filter]
    split
    · congr 1; funext e; by_cases he : e.1 = c <;> simp [he]; omega
    · rw [List.find?_eq_none]; intro e _; simp; omega
  unfold Memory.get Memory.put
  rw [List.find?_append, List.find?_append, below, above]
  rcases Nat.lt_trichotomy c a with h | h | h
  · have h1 : ¬ a < c := by omega
    have h2 : ¬ c = a := by omega
    have h3 : ¬ a = c := by omega
    by_cases hb : b = d <;> simp [h, h1, h2, h3, hb]
  · subst h
    by_cases hb : b = d
    · simp [hb, hd rfl]
    · simp [hb]
  · have h1 : ¬ c < a := by omega
    have h2 : ¬ c = a := by omega
    have h3 : ¬ a = c := by omega
    by_cases hb : b = d <;> simp [h, h1, h2, h3, hb]

theorem State.readByte_writeByte (s : State) (a c : Nat) (b : Byte) :
    (s.writeByte a b).readByte c = if c = a then b else s.readByte c :=
  Memory.get_put s.mem a c b _ _ (fun h => by subst h; rfl)

/-- A block store writes byte j of the list at a + j and leaves every other address alone. -/
theorem State.readByte_writeBytes (s : State) (a : Nat) (bs : List Byte) (c : Nat) :
    (s.writeBytes a bs).readByte c =
      if a ≤ c ∧ c < a + bs.length then bs.getD (c - a) 0 else s.readByte c := by
  induction bs generalizing s a with
  | nil => simp [State.writeBytes]
  | cons b rest ih =>
    simp only [State.writeBytes, List.length_cons]
    rw [ih, State.readByte_writeByte]
    by_cases h1 : c = a
    · subst h1; simp
    · by_cases h2 : a + 1 ≤ c ∧ c < a + 1 + rest.length
      · have h3 : c - a = (c - (a + 1)) + 1 := by omega
        rw [if_pos h2, if_pos (by omega), h3, List.getD_cons_succ]
      · rw [if_neg h2, if_neg h1, if_neg (by omega)]

/-- A block store changes the memory alone. -/
theorem State.writeBytes_eq (s : State) (a : Nat) (bs : List Byte) :
    s.writeBytes a bs = { s with mem := (s.writeBytes a bs).mem } := by
  induction bs generalizing s a with
  | nil => rfl
  | cons b rest ih => rw [State.writeBytes, ih]; rfl

@[simp] theorem State.length_readBytes (s : State) (a k : Nat) : (s.readBytes a k).length = k := by
  simp [State.readBytes]

/-- The j-th byte of a block read is the byte at a + j. -/
theorem State.getElem_readBytes (s : State) (a k j : Nat) (h : j < (s.readBytes a k).length) :
    (s.readBytes a k)[j] = s.readByte (a + j) := by
  simp [State.readBytes]

/-- Storing one byte inside the address space keeps the canonical form. -/
theorem Memory.wf_put {font : Vector Byte 80} {m : List Host.Cell} (hm : Memory.wf font m) {a : Nat}
    (ha : a < 0x1000) (b : Byte) : Memory.wf font (Memory.put m a b (Memory.unlisted font a)) := by
  obtain ⟨hs, hc⟩ := hm
  refine ⟨?_, ?_⟩
  · unfold Memory.put
    rw [List.pairwise_append]
    refine ⟨hs.filter _, ?_, ?_⟩
    · rw [List.pairwise_append]
      refine ⟨?_, hs.filter _, ?_⟩
      · split <;> simp
      · intro e he e' he'
        split at he <;> simp_all
    · intro e he e' he'
      simp only [List.mem_filter, decide_eq_true_eq, List.mem_append] at he he'
      rcases he' with he' | he'
      · split at he' <;> simp_all
      · omega
  · intro e he
    unfold Memory.put at he
    simp only [List.mem_filter, decide_eq_true_eq, List.mem_append] at he
    rcases he with he | he | he
    · exact hc e he.1
    · split at he
      · simp at he
      · next hb => simp only [List.mem_singleton] at he; subst he; exact ⟨ha, hb⟩
    · exact hc e he.1

/-- A block store inside the address space keeps the canonical form. -/
theorem State.wf_writeBytes (s : State) (hs : Memory.wf s.font s.mem) (a : Nat) (bs : List Byte)
    (h : a + bs.length ≤ 0x1000) :
    Memory.wf (s.writeBytes a bs).font (s.writeBytes a bs).mem := by
  induction bs generalizing s a with
  | nil => exact hs
  | cons b rest ih =>
    simp only [List.length_cons] at h
    exact ih (s.writeByte a b) (Memory.wf_put hs (by omega) b) (a + 1) (by omega)

theorem reset_memory_wf : Memory.wf State.reset.font State.reset.mem := ⟨.nil, by simp [State.reset]⟩

end Sys2Proof.Machine
end

