-- ==== Sys2Proof/Laws/Registers.lean ====
section
/-! SUPPORT. Registers: a read after a write, the flag register, and the block load and store of V0..Vx. -/

namespace Sys2Proof.Machine

theorem State.getV_setV (s : State) (x r : Nibble) (b : Byte) :
    (s.setV x b).getV r = if r = x then b else s.getV r := by
  simp [State.getV, State.setV, Vector.getElem_set, BitVec.toNat_inj, eq_comm]

@[simp] theorem State.getV_setV_same (s : State) (x : Nibble) (b : Byte) : (s.setV x b).getV x = b := by
  simp [State.getV_setV]

theorem State.getV_setV_other (s : State) {x r : Nibble} (b : Byte) (h : r ≠ x) :
    (s.setV x b).getV r = s.getV r := by
  simp [State.getV_setV, h]

theorem State.getV_setFlag (s : State) (r : Nibble) (f : Byte) :
    (s.setFlag f).getV r = if r = 0xF#4 then f else s.getV r := s.getV_setV 0xF#4 r f

/-- The block load writes V[k + j] for each byte j of the list and no other register. -/
theorem State.getV_loadV (s : State) (k : Nat) (bs : List Byte) (h : k + bs.length ≤ 16) (r : Nibble) :
    (s.loadV k bs).getV r =
      if k ≤ r.toNat ∧ r.toNat < k + bs.length then bs.getD (r.toNat - k) 0 else s.getV r := by
  induction bs generalizing s k with
  | nil => simp [State.loadV]
  | cons b rest ih =>
    simp only [List.length_cons] at h ⊢
    rw [State.loadV, ih _ _ (by omega), State.getV_setV]
    have hk : (BitVec.ofNat 4 k).toNat = k := by rw [BitVec.toNat_ofNat]; omega
    have hr : r = BitVec.ofNat 4 k ↔ r.toNat = k := by rw [← BitVec.toNat_inj, hk]
    by_cases h1 : r.toNat = k
    · simp [h1, hr]
    · by_cases h2 : k + 1 ≤ r.toNat ∧ r.toNat < k + 1 + rest.length
      · have h3 : r.toNat - k = (r.toNat - (k + 1)) + 1 := by omega
        rw [if_pos h2, if_pos (by omega), h3, List.getD_cons_succ]
      · rw [if_neg h2, if_neg (by rwa [hr]), if_neg (by omega)]

/-- The block load changes the register file alone. -/
theorem State.loadV_eq (s : State) (k : Nat) (bs : List Byte) :
    s.loadV k bs = { s with v := (s.loadV k bs).v } := by
  induction bs generalizing s k with
  | nil => rfl
  | cons b rest ih => rw [State.loadV, ih]; rfl

@[simp] theorem State.length_regsUpTo (s : State) (x : Nibble) : (s.regsUpTo x).length = x.toNat + 1 := by
  simp [State.regsUpTo]

/-- The j-th byte of V0..Vx is V[j]. -/
theorem State.getElem_regsUpTo (s : State) (x : Nibble) (j : Nat) (h : j < (s.regsUpTo x).length) :
    (s.regsUpTo x)[j] = s.getV (BitVec.ofNat 4 j) := by
  simp [State.regsUpTo]

end Sys2Proof.Machine
end

