-- ==== Sys2Proof/Laws/Ops.lean ====
section
/-! SUPPORT. What each remaining shared operation can do, said once: the stack, raising a report, the span check, the key
lookups, a pixel's toggle, the fetch check and the transactions. -/

namespace Sys2Proof.Machine

/-! ## Raising a report -/

/-- Raising always answers the state it was given with one report more, at the fetch address PC - 2. -/
theorem State.raise_eq (s : State) (r : Report) :
    s.raise r = .next { s with reports := s.reports ++ [⟨some (s.pc - 2), r⟩] } := rfl

/-- The span check: the effect where every address is below 0x1000, else the report with the lowest that is not. -/
theorem State.withSpan_eq (s : State) (w : Word) (kind : AccessKind) (k : Nat) (done : State) :
    s.withSpan w kind k done =
      if s.i.toNat + k - 1 ≤ 0xFFF then .next done
      else s.raise (.outOfRange (some w) kind (max s.i.toNat 0x1000)) := by
  unfold State.withSpan
  by_cases h : s.i.toNat + k - 1 ≤ 0xFFF
  · rw [if_pos h, if_neg (by omega)]
  · rw [if_neg h, if_pos (by omega)]

/-! ## The stack -/

/-- A push below 16 frames writes the frame at SP and raises SP by one; nothing else changes. -/
theorem State.push?_of_lt (s : State) (a : Word) (h : s.sp.val < 16) :
    s.push? a = some { s with stack := s.stack.set s.sp.val a, sp := ⟨s.sp.val + 1, by omega⟩ } := dif_pos h

theorem State.push?_full (s : State) (a : Word) (h : s.sp.val = 16) : s.push? a = none :=
  dif_neg (by omega)

/-- A pop of a non-empty stack lowers SP by one and answers the frame there; nothing else changes. -/
theorem State.pop?_of_pos (s : State) (h : 0 < s.sp.val) :
    s.pop? = some (s.stack[s.sp.val - 1], { s with sp := ⟨s.sp.val - 1, by omega⟩ }) := dif_pos h

theorem State.pop?_empty (s : State) (h : s.sp.val = 0) : s.pop? = none := dif_neg (by omega)

/-! ## Keys -/

theorem keyIndex?_of_lt (b : Byte) (h : b.toNat < 16) : keyIndex? b = some ⟨b.toNat, h⟩ := dif_pos h

theorem keyIndex?_of_ge (b : Byte) (h : 16 ≤ b.toNat) : keyIndex? b = none := dif_neg (by omega)

/-- The lowest pressed key is pressed, and no lower one is. -/
theorem State.lowestKey?_some (s : State) (k : Fin 16) (h : s.lowestKey? = some k) :
    s.key k = true ∧ ∀ j : Fin 16, j < k → s.key j = false := by
  unfold State.lowestKey? at h
  rw [List.find?_eq_some_iff_getElem] at h
  obtain ⟨hk, n, hn, hget, hlow⟩ := h
  refine ⟨hk, fun j hj => ?_⟩
  have hkn : k.val = n := by rw [← hget]; simp
  have := hlow j.val (by omega)
  simpa using this

theorem State.lowestKey?_none (s : State) : s.lowestKey? = none ↔ ∀ k : Fin 16, s.key k = false := by
  simp [State.lowestKey?]

/-! ## The framebuffer -/

/-- A toggle inside the grid flips its own pixel and no other. -/
theorem Framebuffer.pixel_toggle (fb : Framebuffer) {c r : Nat} (hc : c < 64) (hr : r < 32) (c' r' : Nat) :
    (fb.toggle c r).pixel c' r' = if c' = c ∧ r' = r then !fb.pixel c' r' else fb.pixel c' r' := by
  unfold Framebuffer.toggle Framebuffer.pixel
  rw [dif_pos hr]
  by_cases hr' : r' < 32
  · rw [dif_pos hr', dif_pos hr', Vector.getElem_set]
    by_cases h : r = r'
    · subst h
      have bit : (1#64 <<< c).getLsbD c' = decide (c' = c) := by
        by_cases hcc : c' = c
        · subst hcc; simp [hc]
        · by_cases hlt : c' < c <;> simp [hcc, hlt, BitVec.getLsbD_one]; omega
      by_cases hcc : c' = c <;> simp [hcc, bit]
      subst hcc; simp [hc]
    · rw [if_neg h, if_neg (by tauto)]
  · rw [dif_neg hr', dif_neg hr', if_neg (by omega)]

@[simp] theorem Framebuffer.pixel_dark (c r : Nat) : Framebuffer.dark.pixel c r = false := by
  simp [Framebuffer.pixel, Framebuffer.dark]

/-! ## Fetch -/

/-- A fetch is in range exactly when PC is below 0xFFF; else the address is the first of PC and PC + 1 above 0xFFF. -/
theorem State.badFetchAddress?_eq (s : State) :
    s.badFetchAddress? = if s.pc.toNat < 0xFFF then none else some (max s.pc.toNat 0x1000) := by
  unfold State.badFetchAddress?
  by_cases h1 : s.pc.toNat < 0xFFF
  · rw [if_pos h1, if_neg (by omega), if_neg (by omega)]
  · rw [if_neg h1]
    by_cases h2 : s.pc.toNat > 0xFFF
    · rw [if_pos h2, Nat.max_eq_left (by omega)]
    · rw [if_neg h2, if_pos (by omega), Nat.max_eq_right (by omega)]; congr 1; omega

/-- A cpu tick with PC in range runs the word at PC, with PC past it. -/
theorem State.cpuTick_of_lt (s : State) (rnd : Option Byte) (h : s.pc.toNat < 0xFFF) :
    s.cpuTick rnd = (s.beginTick rnd).advance.runWord (s.readWord s.pc.toNat) := by
  unfold State.cpuTick State.fetchAndRun
  rw [State.badFetchAddress?_eq, State.beginTick_pc, if_pos h]
  rfl

/-- A cpu tick with PC out of range logs its report and changes nothing else of the record. -/
theorem State.cpuTick_of_ge (s : State) (rnd : Option Byte) (h : 0xFFF ≤ s.pc.toNat) :
    s.cpuTick rnd =
      .next ((s.beginTick rnd).logReport (some s.pc) (.outOfRange none .fetch (max s.pc.toNat 0x1000))) := by
  unfold State.cpuTick State.fetchAndRun
  rw [State.badFetchAddress?_eq, State.beginTick_pc, if_neg (by omega)]

/-! ## The step -/

/-- A step runs the transaction that comes next on the state it is taken off. -/
theorem step_eq (s : State) : step s = s.taken.transact s.upcoming := rfl

/-- With nothing scheduled the transaction is the next of the free sequence. -/
theorem step_of_empty (s : State) (h : s.schedule = []) :
    step s = State.transact { s with turns := s.turns + 1 } (Config.freeTransaction s.turns) := by
  simp [step_eq, State.taken, State.upcoming, h]

theorem step_of_cons (s : State) (t : Transaction) (rest : List Transaction) (h : s.schedule = t :: rest) :
    step s = State.transact { s with schedule := rest } t := by
  simp [step_eq, State.taken, State.upcoming, h]

end Sys2Proof.Machine
end

