-- ==== Sys2Proof/Laws/Exec.lean ====
section
/-! SUPPORT. What `exec`, a fetched word, a cpu tick and a transaction can do, said once. A proof about every instruction takes
the case of the instruction from here and unfolds no meaning. -/

namespace Sys2Proof.Machine

/-- What an instruction that raises no report does to the state: which fields it may change, and to what where that is short. -/
def ExecShape (i : Instr) (s t : State) : Prop :=
  match i with
  | .cls => t = { s with fb := t.fb, renders := s.renders ++ [⟨64, 32, t.fb⟩] }
  | .drw _ _ _ =>
    t = { s with v := t.v, fb := t.fb, renders := s.renders ++ [⟨64, 32, t.fb⟩] } ∧ keepsRegistersBut [0xF] s t
  | .ret => t = { s with pc := t.pc, sp := t.sp } ∧ ∃ k : Fin 16, t.pc = s.stack[k.val]
  | .call nnn =>
    t = { s with pc := zext16 nnn, sp := t.sp, stack := t.stack } ∧ ∃ k : Fin 16, t.stack = s.stack.set k.val s.pc
  | .jp nnn => t = { s with pc := zext16 nnn }
  | .jpV0 nnn => t = { s with pc := zext16 nnn + byteToWord (s.getV 0) }
  | .seImm _ _ | .sneImm _ _ | .seReg _ _ | .sneReg _ _ | .skp _ | .sknp _ => t = s ∨ t = { s with pc := s.pc + 2 }
  | .ldVxK x => t = { s with pc := s.pc - 2 } ∨ (t = { s with v := t.v } ∧ keepsRegistersBut [x] s t)
  | .ldImm x _ | .addImm x _ | .ldReg x _ | .orReg x _ | .andReg x _ | .xorReg x _ | .rnd x _ | .ldVxDt x =>
    t = { s with v := t.v } ∧ keepsRegistersBut [x] s t
  | .addReg x _ | .subReg x _ | .shrReg x _ | .subnReg x _ | .shlReg x _ =>
    t = { s with v := t.v } ∧ keepsRegistersBut [x, 0xF] s t
  | .loadRegs x => t = { s with v := t.v } ∧ ∀ r, x.toNat < r.toNat → t.getV r = s.getV r
  | .ldI _ | .addI _ | .ldF _ => t = { s with i := t.i }
  | .ldDtVx _ => t = { s with dt := t.dt }
  | .ldStVx _ => t = { s with st := t.st }
  | .ldB x => t = s.writeBytes s.i.toNat (bcdDigits (s.getV x)) ∧ s.i.toNat + 2 ≤ 0xFFF
  | .storeRegs x => t = s.writeBytes s.i.toNat (s.regsUpTo x) ∧ s.i.toNat + x.toNat ≤ 0xFFF

/-- The state with one report more, at the fetch address PC - 2, and nothing else changed. -/
def Reported (s t : State) : Prop := ∃ r, t = { s with reports := s.reports ++ [⟨some (s.pc - 2), r⟩] }

theorem keepsRegistersBut_setV (s : State) (x : Nibble) (b : Byte) : keepsRegistersBut [x] s (s.setV x b) := by
  intro r hr
  simp at hr
  exact s.getV_setV_other b hr

theorem keepsRegistersBut_setV_setFlag (s : State) (x : Nibble) (b f : Byte) :
    keepsRegistersBut [x, 0xF] s ((s.setV x b).setFlag f) := by
  intro r hr
  simp at hr
  simp [State.getV_setFlag, State.getV_setV, hr]

/-- A skip leaves the state or adds 2 to PC. -/
theorem State.skipIf_eq_or (s : State) (c : Bool) : s.skipIf c = s ∨ s.skipIf c = { s with pc := s.pc + 2 } := by
  cases c
  · exact .inl rfl
  · exact .inr rfl

/-- A span check logs its report, or its span is in range and the effect is done. -/
theorem State.withSpan_cases (s : State) (w : Word) (kind : AccessKind) (k : Nat) (done : State) (P : State → Prop)
    (h : s.i.toNat + k - 1 ≤ 0xFFF → P done) : ∃ t, s.withSpan w kind k done = .next t ∧ (Reported s t ∨ P t) := by
  rw [State.withSpan_eq]
  split
  · next hk => exact ⟨_, rfl, .inr (h hk)⟩
  · exact ⟨_, rfl, .inl ⟨_, rfl⟩⟩

/-- Every instruction answers a next state: one report more and nothing else, or its shape. -/
theorem exec_shape (i : Instr) (s : State) : ∃ t, exec i s = .next t ∧ (Reported s t ∨ ExecShape i s t) := by
  cases i
  case ret =>
    by_cases h : s.sp.val = 0
    · exact ⟨_, by simp only [exec, execRet]; rw [s.pop?_empty h, State.raise_eq], .inl ⟨_, rfl⟩⟩
    · exact ⟨_, by simp only [exec, execRet]; rw [s.pop?_of_pos (by omega)],
        .inr ⟨rfl, ⟨s.sp.val - 1, by omega⟩, rfl⟩⟩
  case call nnn =>
    by_cases h : s.sp.val < 16
    · exact ⟨_, by simp only [exec, execCall]; rw [s.push?_of_lt _ h], .inr ⟨rfl, ⟨s.sp.val, by omega⟩, rfl⟩⟩
    · exact ⟨_, by simp only [exec, execCall]; rw [s.push?_full _ (by omega), State.raise_eq], .inl ⟨_, rfl⟩⟩
  case skp x =>
    simp only [exec, execSkp]
    split
    · exact ⟨_, rfl, .inr (s.skipIf_eq_or _)⟩
    · exact ⟨_, rfl, .inl ⟨_, rfl⟩⟩
  case sknp x =>
    simp only [exec, execSknp]
    split
    · exact ⟨_, rfl, .inr (s.skipIf_eq_or _)⟩
    · exact ⟨_, rfl, .inl ⟨_, rfl⟩⟩
  case ldVxK x =>
    simp only [exec, execLdVxK]
    split
    · exact ⟨_, rfl, .inr (.inr ⟨rfl, keepsRegistersBut_setV _ _ _⟩)⟩
    · exact ⟨_, rfl, .inr (.inl rfl)⟩
  case ldB x => exact s.withSpan_cases _ _ _ _ (ExecShape (.ldB x) s) (fun h => ⟨rfl, by omega⟩)
  case storeRegs x => exact s.withSpan_cases _ _ _ _ (ExecShape (.storeRegs x) s) (fun h => ⟨rfl, by omega⟩)
  case loadRegs x =>
    refine s.withSpan_cases _ _ _ _ (ExecShape (.loadRegs x) s) (fun _ => ⟨State.loadV_eq _ _ _, fun r hr => ?_⟩)
    have := x.isLt
    rw [State.getV_loadV _ _ _ (by simp; omega), if_neg (by simp; omega)]
  case drw x y n =>
    have key : ExecShape (.drw x y n) s (s.draw x y n) :=
      ⟨rfl, by intro r hr; simp at hr; simp [State.draw, State.getV_setFlag, hr]⟩
    simp only [exec, execDrw]
    split
    · exact ⟨_, rfl, .inr key⟩
    · exact s.withSpan_cases _ _ _ _ (ExecShape (.drw x y n) s) (fun _ => key)
  case shrReg x y | shlReg x y =>
    refine ⟨_, rfl, .inr ⟨rfl, fun r hr => ?_⟩⟩
    simp at hr
    simp [State.flagFrom, State.updateV, State.getV_setFlag, State.getV_setV, hr]
  all_goals first
    | exact ⟨_, rfl, .inr (s.skipIf_eq_or _)⟩
    | exact ⟨_, rfl, .inr rfl⟩
    | exact ⟨_, rfl, .inr ⟨rfl, keepsRegistersBut_setV _ _ _⟩⟩
    | exact ⟨_, rfl, .inr ⟨rfl, keepsRegistersBut_setV_setFlag _ _ _ _⟩⟩

/-- The inversion of exec: what the next state of an instruction can be. -/
theorem exec_cases {i : Instr} {s t : State} (h : exec i s = .next t) : Reported s t ∨ ExecShape i s t := by
  obtain ⟨u, hu, hc⟩ := exec_shape i s
  rw [h] at hu
  cases hu
  exact hc

/-- A fetched word answers a next state: one report more, or the shape of the instruction it decodes to. -/
theorem State.runWord_shape (s : State) (w : Word) :
    ∃ t, s.runWord w = .next t ∧ (Reported s t ∨ ∃ i, decodeWord w = .ok i ∧ ExecShape i s t) := by
  unfold State.runWord
  split
  · next i hi =>
    obtain ⟨t, h, hc⟩ := exec_shape i s
    exact ⟨t, h, hc.imp id (fun h => ⟨i, hi, h⟩)⟩
  · exact ⟨_, rfl, .inl ⟨_, rfl⟩⟩

/-- A cpu tick answers a next state: one report more, at PC, with PC as it was or past the word; or the shape of the
instruction at PC, on the state whose PC is past it. -/
theorem State.cpuTick_shape (s : State) (rnd : Option Byte) :
    ∃ t, s.cpuTick rnd = .next t ∧
      ((∃ r, t = { s with
            rnd := rnd, draws := s.draws + 1, pc := t.pc, reports := s.reports ++ [⟨some s.pc, r⟩] } ∧
          (t.pc = s.pc ∨ (s.pc.toNat < 0xFFF ∧ t.pc = s.pc + 2))) ∨
        (s.pc.toNat < 0xFFF ∧ ∃ i, decodeWord (s.readWord s.pc.toNat) = .ok i ∧
          ExecShape i (s.beginTick rnd).advance t)) := by
  by_cases h : s.pc.toNat < 0xFFF
  · rw [State.cpuTick_of_lt _ _ h]
    obtain ⟨t, h1, ⟨r, h2⟩ | h2⟩ := (s.beginTick rnd).advance.runWord_shape (s.readWord s.pc.toNat)
    · refine ⟨t, h1, .inl ⟨r, ?_, .inr ⟨h, by rw [h2]; rfl⟩⟩⟩
      rw [h2]
      simp
    · exact ⟨t, h1, .inr ⟨h, h2⟩⟩
  · rw [State.cpuTick_of_ge _ _ (by omega)]
    exact ⟨_, rfl, .inl ⟨_, rfl, .inl rfl⟩⟩

/-- Every transaction answers a next state. -/
theorem State.transact_next (s : State) (a : Transaction) : ∃ t, s.transact a = .next t := by
  cases a
  case cpuTick rnd =>
    obtain ⟨t, h, -⟩ := s.cpuTick_shape rnd
    exact ⟨t, h⟩
  all_goals exact ⟨_, rfl⟩

/-! ## What the host sends later has no part in a transaction

Replacing the schedule and the index of the free sequence replaces them in the state after, and changes nothing else. -/

theorem State.writeBytes_host (s : State) (l : List Transaction) (n a : Nat) (bs : List Byte) :
    State.writeBytes { s with schedule := l, turns := n } a bs =
      { s.writeBytes a bs with schedule := l, turns := n } := by
  induction bs generalizing s a with
  | nil => rfl
  | cons b rest ih => exact ih (s.writeByte a b) (a + 1)

theorem State.loadV_host (s : State) (l : List Transaction) (n k : Nat) (bs : List Byte) :
    State.loadV { s with schedule := l, turns := n } k bs = { s.loadV k bs with schedule := l, turns := n } := by
  induction bs generalizing s k with
  | nil => rfl
  | cons b rest ih => exact ih (s.setV (BitVec.ofNat 4 k) b) (k + 1)

theorem State.withSpan_host {s t : State} (l : List Transaction) (n : Nat) {w : Word} {kind : AccessKind} {k : Nat}
    {done done' : State} (hd : done' = { done with schedule := l, turns := n })
    (h : s.withSpan w kind k done = .next t) :
    State.withSpan { s with schedule := l, turns := n } w kind k done' =
      .next { t with schedule := l, turns := n } := by
  subst hd
  unfold State.withSpan at h ⊢
  split at h <;> cases h
  · rw [if_pos ‹_›]; rfl
  · rw [if_neg ‹_›]

theorem exec_host {i : Instr} {s t : State} (l : List Transaction) (n : Nat) (h : exec i s = .next t) :
    exec i { s with schedule := l, turns := n } = .next { t with schedule := l, turns := n } := by
  cases i
  case ret =>
    by_cases hs : s.sp.val = 0
    · simp only [exec, execRet] at h ⊢
      rw [State.pop?_empty _ hs] at h
      rw [State.pop?_empty _ (by exact hs)]
      cases h; rfl
    · simp only [exec, execRet] at h ⊢
      rw [State.pop?_of_pos _ (by omega)] at h
      rw [State.pop?_of_pos _ (by show 0 < s.sp.val; omega)]
      cases h; rfl
  case call nnn =>
    by_cases hs : s.sp.val < 16
    · simp only [exec, execCall] at h ⊢
      rw [State.push?_of_lt _ _ hs] at h
      rw [State.push?_of_lt _ _ (by exact hs)]
      cases h; rfl
    · simp only [exec, execCall] at h ⊢
      rw [State.push?_full _ _ (by omega)] at h
      rw [State.push?_full _ _ (by show s.sp.val = 16; omega)]
      cases h; rfl
  case skp x | sknp x =>
    simp only [exec, execSkp, execSknp] at h ⊢
    split at h
    · next k hk =>
      rw [show State.getV { s with schedule := l, turns := n } x = s.getV x from rfl, hk]
      cases h
      show Host.Outcome.next (State.skipIf _ _) = _
      unfold State.skipIf
      split <;> split <;> simp_all [State.key]; rfl
    · next hk =>
      rw [show State.getV { s with schedule := l, turns := n } x = s.getV x from rfl, hk]
      cases h; rfl
  case ldVxK x =>
    simp only [exec, execLdVxK] at h ⊢
    rw [show State.lowestKey? { s with schedule := l, turns := n } = s.lowestKey? from rfl]
    split at h <;> cases h <;> rfl
  case seImm x y | sneImm x y | seReg x y | sneReg x y =>
    cases h
    simp only [exec, execSeImm, execSneImm, execSeReg, execSneReg, State.skipIf]
    split <;> split <;> first | rfl | simp_all [State.getV]
  case ldB x => exact State.withSpan_host l n (State.writeBytes_host _ _ _ _ _) h
  case storeRegs x => exact State.withSpan_host l n (State.writeBytes_host _ _ _ _ _) h
  case loadRegs x => exact State.withSpan_host l n (State.loadV_host _ _ _ _ _) h
  case drw x y k =>
    simp only [exec, execDrw] at h ⊢
    split at h
    · rw [if_pos ‹_›]; cases h; rfl
    · rw [if_neg ‹_›]; exact State.withSpan_host l n rfl h
  all_goals cases h; rfl

theorem State.transact_host {a : Transaction} {s t : State} (l : List Transaction) (n : Nat)
    (h : s.transact a = .next t) :
    State.transact { s with schedule := l, turns := n } a = .next { t with schedule := l, turns := n } := by
  cases a
  case init rom =>
    cases h
    simp only [State.transact, State.init, State.loadRom]
    split
    · rfl
    · exact congrArg Host.Outcome.next (State.writeBytes_host
        { State.reset with font := s.font, schedule := s.schedule, turns := s.turns, draws := s.draws } l n _ rom)
  case cpuTick rnd =>
    show State.cpuTick _ rnd = _
    change s.cpuTick rnd = _ at h
    by_cases hp : s.pc.toNat < 0xFFF
    · rw [State.cpuTick_of_lt _ _ hp] at h
      rw [State.cpuTick_of_lt _ _ (by exact hp)]
      show State.runWord _ (s.readWord s.pc.toNat) = _
      unfold State.runWord at h ⊢
      split at h
      · exact exec_host l n h
      · cases h; rfl
    · rw [State.cpuTick_of_ge _ _ (by omega)] at h
      rw [State.cpuTick_of_ge _ _ (by show 0xFFF ≤ s.pc.toNat; omega)]
      cases h; rfl
  all_goals cases h; rfl

end Sys2Proof.Machine
end

