-- ==== Sys2Proof/Laws/PerInstr.lean ====
section
/-! SUPPORT. The lemma family OpcodeRow: the word the encoder builds for an instruction is a word of that instruction's row of
the opcode map (30_encoding.md R104), one lemma per constructor. -/

namespace Sys2Proof.Laws.OpcodeRow

/-- The instruction's row is in the opcode map, and its encoding matches the row's fixed bits, for every operand value. -/
def Statement (i : Instr) : Prop := i.row ∈ opcodeRows ∧ i.row.fits (encode i) = true

theorem wordNNN_op (op : Nibble) (nnn : Addr12) : wordNNN op nnn &&& 0xF000 = wordNNN op 0 := by
  simp only [wordNNN]
  ext k hk
  have : (0xF000#16)[k] = decide (12 ≤ k) := by revert k; decide
  grind

theorem wordXNN_op (op x : Nibble) (nn : Byte) : wordXNN op x nn &&& 0xF000 = wordXNN op 0 0 := by
  simp only [wordXNN]
  ext k hk
  have : (0xF000#16)[k] = decide (12 ≤ k) := by revert k; decide
  grind

theorem wordXNN_op_nn (op x : Nibble) (nn : Byte) : wordXNN op x nn &&& 0xF0FF = wordXNN op 0 nn := by
  simp only [wordXNN]
  ext k hk
  have : (0xF0FF#16)[k] = (decide (12 ≤ k) || decide (k < 8)) := by revert k; decide
  grind

theorem wordXYN_op (op x y n : Nibble) : wordXYN op x y n &&& 0xF000 = wordXYN op 0 0 0 := by
  simp only [wordXYN]
  ext k hk
  have : (0xF000#16)[k] = decide (12 ≤ k) := by revert k; decide
  grind

theorem wordXYN_op_n (op x y n : Nibble) : wordXYN op x y n &&& 0xF00F = wordXYN op 0 0 n := by
  simp only [wordXYN]
  ext k hk
  have : (0xF00F#16)[k] = (decide (12 ≤ k) || decide (k < 4)) := by revert k; decide
  grind

theorem cls : Statement .cls := ⟨by decide, by decide⟩

theorem ret : Statement .ret := ⟨by decide, by decide⟩

theorem jp (nnn : Addr12) : Statement (.jp nnn) :=
  ⟨by simp only [Instr.row]; decide, by
    simp only [Instr.row, OpcodeRow.fits, encode, wordNNN_op]; decide⟩

theorem call (nnn : Addr12) : Statement (.call nnn) :=
  ⟨by simp only [Instr.row]; decide, by
    simp only [Instr.row, OpcodeRow.fits, encode, wordNNN_op]; decide⟩

theorem seImm (x : Nibble) (nn : Byte) : Statement (.seImm x nn) :=
  ⟨by simp only [Instr.row]; decide, by
    simp only [Instr.row, OpcodeRow.fits, encode, wordXNN_op]; decide⟩

theorem sneImm (x : Nibble) (nn : Byte) : Statement (.sneImm x nn) :=
  ⟨by simp only [Instr.row]; decide, by
    simp only [Instr.row, OpcodeRow.fits, encode, wordXNN_op]; decide⟩

theorem seReg (x : Nibble) (y : Nibble) : Statement (.seReg x y) :=
  ⟨by simp only [Instr.row]; decide, by
    simp only [Instr.row, OpcodeRow.fits, encode, wordXYN_op_n]; decide⟩

theorem ldImm (x : Nibble) (nn : Byte) : Statement (.ldImm x nn) :=
  ⟨by simp only [Instr.row]; decide, by
    simp only [Instr.row, OpcodeRow.fits, encode, wordXNN_op]; decide⟩

theorem addImm (x : Nibble) (nn : Byte) : Statement (.addImm x nn) :=
  ⟨by simp only [Instr.row]; decide, by
    simp only [Instr.row, OpcodeRow.fits, encode, wordXNN_op]; decide⟩

theorem ldReg (x : Nibble) (y : Nibble) : Statement (.ldReg x y) :=
  ⟨by simp only [Instr.row]; decide, by
    simp only [Instr.row, OpcodeRow.fits, encode, wordXYN_op_n]; decide⟩

theorem orReg (x : Nibble) (y : Nibble) : Statement (.orReg x y) :=
  ⟨by simp only [Instr.row]; decide, by
    simp only [Instr.row, OpcodeRow.fits, encode, wordXYN_op_n]; decide⟩

theorem andReg (x : Nibble) (y : Nibble) : Statement (.andReg x y) :=
  ⟨by simp only [Instr.row]; decide, by
    simp only [Instr.row, OpcodeRow.fits, encode, wordXYN_op_n]; decide⟩

theorem xorReg (x : Nibble) (y : Nibble) : Statement (.xorReg x y) :=
  ⟨by simp only [Instr.row]; decide, by
    simp only [Instr.row, OpcodeRow.fits, encode, wordXYN_op_n]; decide⟩

theorem addReg (x : Nibble) (y : Nibble) : Statement (.addReg x y) :=
  ⟨by simp only [Instr.row]; decide, by
    simp only [Instr.row, OpcodeRow.fits, encode, wordXYN_op_n]; decide⟩

theorem subReg (x : Nibble) (y : Nibble) : Statement (.subReg x y) :=
  ⟨by simp only [Instr.row]; decide, by
    simp only [Instr.row, OpcodeRow.fits, encode, wordXYN_op_n]; decide⟩

theorem shrReg (x : Nibble) (y : Nibble) : Statement (.shrReg x y) :=
  ⟨by simp only [Instr.row]; decide, by
    simp only [Instr.row, OpcodeRow.fits, encode, wordXYN_op_n]; decide⟩

theorem subnReg (x : Nibble) (y : Nibble) : Statement (.subnReg x y) :=
  ⟨by simp only [Instr.row]; decide, by
    simp only [Instr.row, OpcodeRow.fits, encode, wordXYN_op_n]; decide⟩

theorem shlReg (x : Nibble) (y : Nibble) : Statement (.shlReg x y) :=
  ⟨by simp only [Instr.row]; decide, by
    simp only [Instr.row, OpcodeRow.fits, encode, wordXYN_op_n]; decide⟩

theorem sneReg (x : Nibble) (y : Nibble) : Statement (.sneReg x y) :=
  ⟨by simp only [Instr.row]; decide, by
    simp only [Instr.row, OpcodeRow.fits, encode, wordXYN_op_n]; decide⟩

theorem ldI (nnn : Addr12) : Statement (.ldI nnn) :=
  ⟨by simp only [Instr.row]; decide, by
    simp only [Instr.row, OpcodeRow.fits, encode, wordNNN_op]; decide⟩

theorem jpV0 (nnn : Addr12) : Statement (.jpV0 nnn) :=
  ⟨by simp only [Instr.row]; decide, by
    simp only [Instr.row, OpcodeRow.fits, encode, wordNNN_op]; decide⟩

theorem rnd (x : Nibble) (nn : Byte) : Statement (.rnd x nn) :=
  ⟨by simp only [Instr.row]; decide, by
    simp only [Instr.row, OpcodeRow.fits, encode, wordXNN_op]; decide⟩

theorem drw (x : Nibble) (y : Nibble) (n : Nibble) : Statement (.drw x y n) :=
  ⟨by simp only [Instr.row]; decide, by
    simp only [Instr.row, OpcodeRow.fits, encode, wordXYN_op]; decide⟩

theorem skp (x : Nibble) : Statement (.skp x) :=
  ⟨by simp only [Instr.row]; decide, by
    simp only [Instr.row, OpcodeRow.fits, encode, wordXNN_op_nn]; decide⟩

theorem sknp (x : Nibble) : Statement (.sknp x) :=
  ⟨by simp only [Instr.row]; decide, by
    simp only [Instr.row, OpcodeRow.fits, encode, wordXNN_op_nn]; decide⟩

theorem ldVxDt (x : Nibble) : Statement (.ldVxDt x) :=
  ⟨by simp only [Instr.row]; decide, by
    simp only [Instr.row, OpcodeRow.fits, encode, wordXNN_op_nn]; decide⟩

theorem ldVxK (x : Nibble) : Statement (.ldVxK x) :=
  ⟨by simp only [Instr.row]; decide, by
    simp only [Instr.row, OpcodeRow.fits, encode, wordXNN_op_nn]; decide⟩

theorem ldDtVx (x : Nibble) : Statement (.ldDtVx x) :=
  ⟨by simp only [Instr.row]; decide, by
    simp only [Instr.row, OpcodeRow.fits, encode, wordXNN_op_nn]; decide⟩

theorem ldStVx (x : Nibble) : Statement (.ldStVx x) :=
  ⟨by simp only [Instr.row]; decide, by
    simp only [Instr.row, OpcodeRow.fits, encode, wordXNN_op_nn]; decide⟩

theorem addI (x : Nibble) : Statement (.addI x) :=
  ⟨by simp only [Instr.row]; decide, by
    simp only [Instr.row, OpcodeRow.fits, encode, wordXNN_op_nn]; decide⟩

theorem ldF (x : Nibble) : Statement (.ldF x) :=
  ⟨by simp only [Instr.row]; decide, by
    simp only [Instr.row, OpcodeRow.fits, encode, wordXNN_op_nn]; decide⟩

theorem ldB (x : Nibble) : Statement (.ldB x) :=
  ⟨by simp only [Instr.row]; decide, by
    simp only [Instr.row, OpcodeRow.fits, encode, wordXNN_op_nn]; decide⟩

theorem storeRegs (x : Nibble) : Statement (.storeRegs x) :=
  ⟨by simp only [Instr.row]; decide, by
    simp only [Instr.row, OpcodeRow.fits, encode, wordXNN_op_nn]; decide⟩

theorem loadRegs (x : Nibble) : Statement (.loadRegs x) :=
  ⟨by simp only [Instr.row]; decide, by
    simp only [Instr.row, OpcodeRow.fits, encode, wordXNN_op_nn]; decide⟩

end Sys2Proof.Laws.OpcodeRow
end

