-- ==== Sys2Proof/Laws/Runs.lean ====
section
/-! SUPPORT. Runs and sequences of instructions, unfolded one step at a time. -/

namespace Sys2Proof.Machine

theorem runsTo_zero (s : State) : runsTo 0 s s := rfl

/-- A run of any machine goes on from the next state of its first step. -/
theorem run_succ_of_next (M : Host.Core) {k : Nat} {s t : M.State} (h : M.step s = .next t) :
    M.run (k + 1) s = M.run k t := by
  rw [Host.Core.run, h]

/-- A run goes on from the next state of its first step. -/
theorem runsTo_succ {k : Nat} {s t u : State} (h : step s = .next t) (hr : runsTo k t u) : runsTo (k + 1) s u :=
  (run_succ_of_next Sys2Proof.core h).trans hr

theorem execAll_cons {i : Instr} {s t : State} (rest : List Instr) (h : exec i s = .next t) :
    execAll (i :: rest) s = execAll rest t := by
  simp [execAll, h]

theorem execAll_append {l : List Instr} {s t : State} (m : List Instr) (h : execAll l s = .next t) :
    execAll (l ++ m) s = execAll m t := by
  induction l generalizing s with
  | nil => cases h; rfl
  | cons i l ih =>
    cases hi : exec i s with
    | next u => rw [execAll_cons l hi] at h; rw [List.cons_append, execAll_cons _ hi]; exact ih h
    | fault f => simp [execAll, hi] at h
    | refused r => simp [execAll, hi] at h

end Sys2Proof.Machine
end

