-- ==== Sys2Proof/Tests/Slice0.lean ====
section
/-! SUPPORT. The model's tests and the witnesses of the statements' hypotheses. Expected values are those of
95_test_vectors.md, named by the vector's id, or written out from the encoding of 30_encoding.md R104. -/

namespace Sys2Proof.Machine

/-! ## Well-formedness: one ill-formed word of each unimplemented space (30_encoding.md R106) -/

theorem test_wf_refuses_family0 :
    wordWellFormed 0x0123 = false ∧ decodeWord 0x0123 = .error (.family0 0x0123) ∧ wordWellFormed 0x00E1 = false := by
  decide

theorem test_wf_refuses_family5 :
    wordWellFormed 0x5121 = false ∧ decodeWord 0x5121 = .error (.family5 0x5121) := by decide

theorem test_wf_refuses_family8 :
    wordWellFormed 0x8008 = false ∧ decodeWord 0x8008 = .error (.family8 0x8008) ∧
      wordWellFormed 0x800F = false ∧ wordWellFormed 0x800D = false := by decide

theorem test_wf_refuses_family9 :
    wordWellFormed 0x9121 = false ∧ decodeWord 0x9121 = .error (.family9 0x9121) := by decide

theorem test_wf_refuses_familyE :
    wordWellFormed 0xE19F = false ∧ decodeWord 0xE19F = .error (.familyE 0xE19F) := by decide

theorem test_wf_refuses_familyF :
    wordWellFormed 0xF0FF = false ∧ decodeWord 0xF0FF = .error (.familyF 0xF0FF) := by decide

theorem test_decode_refuses_one_byte : decodeBytes [0x12] = .error .truncated := by decide

/-- No word is of two rows: two rows differ in a bit that both fix. -/
theorem test_rows_pairwise_disjoint :
    opcodeRows.Pairwise (fun a b => a.fixed &&& b.mask ≠ b.fixed &&& a.mask) := by decide

theorem test_rows_are_34 : opcodeRows.length = 34 := by decide

/-! ## Decoding: one word of every row, written out from the row's pattern (30_encoding.md R104) -/

theorem test_decode_cls : decodeWord 0x00E0 = .ok .cls := by decide
theorem test_decode_ret : decodeWord 0x00EE = .ok .ret := by decide
theorem test_decode_jp : decodeWord 0b0001_1010_1011_1100 = .ok (.jp 0xABC) := by decide
theorem test_decode_call : decodeWord 0b0010_0100_0000_0001 = .ok (.call 0x401) := by decide
theorem test_decode_seImm : decodeWord 0b0011_1010_0100_0010 = .ok (.seImm 0xA 0x42) := by decide
theorem test_decode_sneImm : decodeWord 0b0100_1010_0100_0010 = .ok (.sneImm 0xA 0x42) := by decide
theorem test_decode_seReg : decodeWord 0b0101_0001_0010_0000 = .ok (.seReg 0x1 0x2) := by decide
theorem test_decode_ldImm : decodeWord 0b0110_1010_0101_1100 = .ok (.ldImm 0xA 0x5C) := by decide
theorem test_decode_addImm : decodeWord 0b0111_0011_0000_0010 = .ok (.addImm 0x3 0x02) := by decide
theorem test_decode_ldReg : decodeWord 0b1000_1010_1011_0000 = .ok (.ldReg 0xA 0xB) := by decide
theorem test_decode_orReg : decodeWord 0b1000_1010_1011_0001 = .ok (.orReg 0xA 0xB) := by decide
theorem test_decode_andReg : decodeWord 0b1000_1010_1011_0010 = .ok (.andReg 0xA 0xB) := by decide
theorem test_decode_xorReg : decodeWord 0b1000_1010_1011_0011 = .ok (.xorReg 0xA 0xB) := by decide
theorem test_decode_addReg : decodeWord 0b1000_1010_1011_0100 = .ok (.addReg 0xA 0xB) := by decide
theorem test_decode_subReg : decodeWord 0b1000_1010_1011_0101 = .ok (.subReg 0xA 0xB) := by decide
theorem test_decode_shrReg : decodeWord 0b1000_1010_1011_0110 = .ok (.shrReg 0xA 0xB) := by decide
theorem test_decode_subnReg : decodeWord 0b1000_1010_1011_0111 = .ok (.subnReg 0xA 0xB) := by decide
theorem test_decode_shlReg : decodeWord 0b1000_1010_1011_1110 = .ok (.shlReg 0xA 0xB) := by decide
theorem test_decode_sneReg : decodeWord 0b1001_0001_0010_0000 = .ok (.sneReg 0x1 0x2) := by decide
theorem test_decode_ldI : decodeWord 0b1010_0001_0010_0011 = .ok (.ldI 0x123) := by decide
theorem test_decode_jpV0 : decodeWord 0b1011_0011_0000_0001 = .ok (.jpV0 0x301) := by decide
theorem test_decode_rnd : decodeWord 0b1100_0011_0000_1111 = .ok (.rnd 0x3 0x0F) := by decide
theorem test_decode_drw : decodeWord 0b1101_0001_0010_1111 = .ok (.drw 0x1 0x2 0xF) := by decide
theorem test_decode_skp : decodeWord 0b1110_0001_1001_1110 = .ok (.skp 0x1) := by decide
theorem test_decode_sknp : decodeWord 0b1110_0001_1010_0001 = .ok (.sknp 0x1) := by decide
theorem test_decode_ldVxDt : decodeWord 0b1111_0100_0000_0111 = .ok (.ldVxDt 0x4) := by decide
theorem test_decode_ldVxK : decodeWord 0b1111_0011_0000_1010 = .ok (.ldVxK 0x3) := by decide
theorem test_decode_ldDtVx : decodeWord 0b1111_0011_0001_0101 = .ok (.ldDtVx 0x3) := by decide
theorem test_decode_ldStVx : decodeWord 0b1111_0011_0001_1000 = .ok (.ldStVx 0x3) := by decide
theorem test_decode_addI : decodeWord 0b1111_0010_0001_1110 = .ok (.addI 0x2) := by decide
theorem test_decode_ldF : decodeWord 0b1111_0100_0010_1001 = .ok (.ldF 0x4) := by decide
theorem test_decode_ldB : decodeWord 0b1111_0100_0011_0011 = .ok (.ldB 0x4) := by decide
theorem test_decode_storeRegs : decodeWord 0b1111_0010_0101_0101 = .ok (.storeRegs 0x2) := by decide
theorem test_decode_loadRegs : decodeWord 0b1111_0001_0110_0101 = .ok (.loadRegs 0x1) := by decide

/-- The table's numbering: one 16-bit word, bits 15:0; the bits above are dropped. -/
theorem test_decode_table_word :
    decodeTableWord 16 0x6A5C = some (.ldImm 0xA 0x5C) ∧ decodeTableWord 16 0x0123 = none := by decide

/-! ## One cpu tick, with the vectors' start states -/

/-- The vectors' start state: after `init` of an empty ROM. -/
def start : State := State.reset

/-- A state after one cpu tick whose random byte is 0xAB. -/
def ticked (s : State) : State :=
  match s.cpuTick (some 0xAB) with
  | .next t => t
  | _ => s

/-- A state after the word at 0x0200 has run in one cpu tick. -/
def after (w : Word) (s : State) : State := ticked (s.placeWord w)

/-- The start state with bytes stored from an address on, and I at that address. -/
def startAt (a : Nat) (bs : List Byte) : State := (start.writeBytes a bs).setI (BitVec.ofNat 16 a)

/-- The start state with one lit pixel. -/
def startLit (c r : Nat) : State := start.setFb (Framebuffer.dark.toggle c r)

/-- The start state with the listed keys pressed. -/
def startKeys (ks : List Nat) : State := start.setKeys (Vector.ofFn (fun k => ks.contains k.val))

/-- The start state with a call depth and frames 0x0300, 0x0302, ... -/
def startDepth (d : Fin 17) : State :=
  { start with sp := d, stack := Vector.ofFn (fun k => BitVec.ofNat 16 (0x300 + 2 * k.val)) }

/-- EX1. -/
theorem test_fetch_big_endian :
    (ticked { start.writeBytes 0x300 [0xAB, 0xCD] with pc := 0x0300 }).i = 0x0BCD := by decide

/-- EX6. -/
theorem test_fetch_at_last_byte :
    (ticked (start.setPc 0x0FFF)).pc = 0x0FFF ∧
      (ticked (start.setPc 0x0FFF)).reports = [⟨some 0x0FFF, .outOfRange none .fetch 0x1000⟩] := by decide

/-- EX8. -/
theorem test_fetch_odd_address : (ticked ((start.setPc 0x0201).placeWord 0x6A5C)).pc = 0x0203 := by decide

/-- EX3. -/
theorem test_unimplemented_word :
    (after 0x0123 start).pc = 0x0202 ∧
      (after 0x0123 start).reports = [⟨some 0x0200, .unimplementedOpcode 0x0123 0x0200⟩] := by decide

/-- CF1, CF2. -/
theorem test_ret :
    (after 0x00EE { startDepth 1 with stack := start.stack.set 0 0x0456 }).pc = 0x0456 ∧
      (after 0x00EE start).reports = [⟨some 0x0200, .stackUnderflow 0x00EE⟩] := by decide

/-- CF3. -/
theorem test_jp : (after 0x1ABC start).pc = 0x0ABC := by decide

/-- CF4. -/
theorem test_call :
    (after 0x2400 start).pc = 0x0400 ∧ (after 0x2400 start).sp = 1 ∧ (after 0x2400 start).stack[0] = 0x0202 := by
  decide

/-- CF5. -/
theorem test_call_overflow :
    (after 0x2400 (startDepth 16)).pc = 0x0202 ∧
      (after 0x2400 (startDepth 16)).reports = [⟨some 0x0200, .stackOverflow 0x2400⟩] ∧
      (after 0x2400 (startDepth 16)).stack = (startDepth 16).stack := by decide

/-- CF7. -/
theorem test_jpV0_is_not_masked : (after 0xBFFF (start.setV 0x0 0xFF)).pc = 0x10FE := by decide

/-- CF8, CF9. -/
theorem test_seImm :
    (after 0x3A42 (start.setV 0xA 0x42)).pc = 0x0204 ∧ (after 0x3A42 (start.setV 0xA 0x43)).pc = 0x0202 := by decide

/-- CF10, CF11. -/
theorem test_sneImm :
    (after 0x4A42 (start.setV 0xA 0x43)).pc = 0x0204 ∧ (after 0x4A42 (start.setV 0xA 0x42)).pc = 0x0202 := by decide

/-- CF12, and the other outcome of R206. -/
theorem test_seReg :
    (after 0x5120 ((start.setV 0x1 0x07).setV 0x2 0x07)).pc = 0x0204 ∧
      (after 0x5120 (start.setV 0x1 0x07)).pc = 0x0202 := by decide

/-- CF14, CF15. -/
theorem test_sneReg :
    (after 0x9120 ((start.setV 0x1 0x01).setV 0x2 0x02)).pc = 0x0204 ∧
      (after 0x9120 ((start.setV 0x1 0x07).setV 0x2 0x07)).pc = 0x0202 := by decide

/-- AL1. -/
theorem test_ldImm : (after 0x6A5C start).getV 0xA = 0x5C := by decide

/-- AL2. -/
theorem test_addImm_no_flag :
    (after 0x7302 ((start.setV 0x3 0xFF).setV 0xF 0x77)).getV 0x3 = 0x01 ∧
      (after 0x7302 ((start.setV 0x3 0xFF).setV 0xF 0x77)).getV 0xF = 0x77 := by decide

/-- AL4. -/
theorem test_ldReg : (after 0x8010 ((start.setV 0x0 0x99).setV 0x1 0x12)).getV 0x0 = 0x12 := by decide

/-- AL5. -/
theorem test_orReg :
    (after 0x8011 (((start.setV 0x0 0xF0).setV 0x1 0x0F).setV 0xF 0x55)).getV 0x0 = 0xFF ∧
      (after 0x8011 (((start.setV 0x0 0xF0).setV 0x1 0x0F).setV 0xF 0x55)).getV 0xF = 0x55 := by decide

/-- AL6. -/
theorem test_andReg : (after 0x8012 ((start.setV 0x0 0xF0).setV 0x1 0x3C)).getV 0x0 = 0x30 := by decide

/-- AL7. -/
theorem test_xorReg : (after 0x8013 ((start.setV 0x0 0xF0).setV 0x1 0x3C)).getV 0x0 = 0xCC := by decide

/-- AL8. -/
theorem test_addReg_carry :
    (after 0x8014 ((start.setV 0x0 250).setV 0x1 10)).getV 0x0 = 0x04 ∧
      (after 0x8014 ((start.setV 0x0 250).setV 0x1 10)).getV 0xF = 0x01 := by decide

/-- AL13. -/
theorem test_addReg_x_is_F : (after 0x8F14 ((start.setV 0xF 0xFF).setV 0x1 0x01)).getV 0xF = 0x01 := by decide

/-- AL15. -/
theorem test_subReg_borrow :
    (after 0x8015 (((start.setV 0x0 3).setV 0x1 10).setV 0xF 0x01)).getV 0x0 = 0xF9 ∧
      (after 0x8015 (((start.setV 0x0 3).setV 0x1 10).setV 0xF 0x01)).getV 0xF = 0x00 := by decide

/-- AL16. -/
theorem test_subReg_equal : (after 0x8015 (((start.setV 0x0 5).setV 0x1 5).setV 0xF 0x01)).getV 0xF = 0x00 := by decide

/-- AL18. -/
theorem test_shrReg_of_Vy :
    (after 0x8016 ((start.setV 0x0 0xFF).setV 0x1 0x05)).getV 0x0 = 0x02 ∧
      (after 0x8016 ((start.setV 0x0 0xFF).setV 0x1 0x05)).getV 0xF = 0x01 := by decide

/-- AL20. -/
theorem test_shrReg_x_is_F : (after 0x8F16 ((start.setV 0x1 0x03).setV 0xF 0x77)).getV 0xF = 0x00 := by decide

/-- AL22, AL24. -/
theorem test_subnReg :
    (after 0x8017 ((start.setV 0x0 3).setV 0x1 10)).getV 0x0 = 0x07 ∧
      (after 0x8017 ((start.setV 0x0 3).setV 0x1 10)).getV 0xF = 0x01 ∧
      (after 0x8017 (((start.setV 0x0 7).setV 0x1 7).setV 0xF 0x01)).getV 0xF = 0x00 := by decide

/-- AL25. -/
theorem test_shlReg_of_Vy :
    (after 0x801E (start.setV 0x1 0x81)).getV 0x0 = 0x02 ∧ (after 0x801E (start.setV 0x1 0x81)).getV 0xF = 0x01 := by
  decide

/-- AL27. -/
theorem test_shlReg_x_is_F : (after 0x8F1E (start.setV 0x1 0x81)).getV 0xF = 0x02 := by decide

/-- AL29. -/
theorem test_rnd : (after 0xC30F start).getV 0x3 = 0x0B := by decide

/-- IM1. -/
theorem test_ldI : (after 0xA123 start).i = 0x0123 := by decide

/-- IM4. -/
theorem test_addI_wraps : (after 0xF01E ((start.setI 0xFFFF).setV 0x0 0x02)).i = 0x0001 := by decide

/-- IM6. -/
theorem test_ldF_is_not_masked : (after 0xF429 (start.setV 0x4 0xFF)).i = 0x04FB := by decide

/-- IM7. -/
theorem test_ldB :
    (after 0xF033 ((start.setV 0x0 215).setI 0x0300)).readBytes 0x300 3 = [0x02, 0x01, 0x05] := by decide

/-- IM11. -/
theorem test_ldB_out_of_range :
    (after 0xF033 ((start.setV 0x0 123).setI 0x0FFE)).reports =
        [⟨some 0x0200, .outOfRange (some 0xF033) .write 0x1000⟩] ∧
      (after 0xF033 ((start.setV 0x0 123).setI 0x0FFE)).readBytes 0xFFE 2 = [0x00, 0x00] := by decide

/-- IM13. -/
theorem test_storeRegs_at_the_top :
    (after 0xF155 (((start.setV 0x0 0x11).setV 0x1 0x22).setI 0x0FFE)).readBytes 0xFFE 2 = [0x11, 0x22] := by decide

/-- IM18. -/
theorem test_storeRegs_over_the_font : (after 0xF055 start).readByte 0 = 0x00 ∧ start.readByte 0 = 0xF0 := by decide

/-- IM15. -/
theorem test_loadRegs :
    (after 0xF265 ((startAt 0x300 [2, 1, 5]).setV 0x3 0x99)).v =
      (((start.setV 0x0 2).setV 0x1 1).setV 0x2 5).v.set 3 0x99 := by decide

/-- IM17. -/
theorem test_loadRegs_out_of_range :
    (after 0xF065 (start.setI 0x1000)).reports = [⟨some 0x0200, .outOfRange (some 0xF065) .read 0x1000⟩] := by decide

/-- TK1. -/
theorem test_ldVxDt : (after 0xF407 (start.setDt 0x3C)).getV 0x4 = 0x3C := by decide

/-- TK2. -/
theorem test_ldDtVx : (after 0xF315 (start.setV 0x3 0x05)).dt = 5 := by decide

/-- TK3. -/
theorem test_ldStVx : (after 0xF018 (start.setV 0x0 0x10)).st = 0x10 := by decide

/-- TK4, TK5. -/
theorem test_skp :
    (after 0xE19E ((startKeys [5]).setV 0x1 0x05)).pc = 0x0204 ∧ (after 0xE19E (start.setV 0x1 0x05)).pc = 0x0202 := by
  decide

/-- TK8. -/
theorem test_skp_index_above_fifteen :
    (after 0xE19E (start.setV 0x1 0x10)).pc = 0x0202 ∧
      (after 0xE19E (start.setV 0x1 0x10)).reports = [⟨some 0x0200, .keyIndexOutOfRange 0xE19E 0x10⟩] := by decide

/-- TK6, TK7. -/
theorem test_sknp :
    (after 0xE1A1 (start.setV 0x1 0x05)).pc = 0x0204 ∧
      (after 0xE1A1 ((startKeys [5]).setV 0x1 0x05)).pc = 0x0202 := by decide

/-- TK10. -/
theorem test_ldVxK_without_a_key :
    (after 0xF30A (start.setV 0x3 0x44)).pc = 0x0200 ∧ (after 0xF30A (start.setV 0x3 0x44)).getV 0x3 = 0x44 := by decide

/-- TK11. -/
theorem test_ldVxK_lowest_key :
    (after 0xF30A (startKeys [5, 9])).pc = 0x0202 ∧ (after 0xF30A (startKeys [5, 9])).getV 0x3 = 0x05 := by decide

/-- TT1 and TT2's zero. -/
theorem test_timer_tick : ({ start with dt := 1 } : State).timerTick = start ∧ start.timerTick = start := by decide

/-- TT3, under the endless sequence of timer ticks. -/
theorem test_endless_timer_ticks :
    (match runUnder 2 (fun _ => .timerTick) { start with dt := 3, st := 1 } with
      | .next t => (t.dt, t.st)
      | _ => (0xFF, 0xFF)) = (1, 0) := by decide

/-- DS1. -/
theorem test_cls :
    (after 0x00E0 (startLit 3 4)).fb = Framebuffer.dark ∧
      (after 0x00E0 (startLit 3 4)).renders = [⟨64, 32, Framebuffer.dark⟩] := by decide

/-- DS4: columns 60 to 63 of row 0 are lit, the rest of the sprite is dropped. -/
theorem test_drw_clips_columns :
    (after 0xD011 ((startAt 0x300 [0xFF]).setV 0x0 60)).fb = Framebuffer.dark.set 0 0xF000000000000000 := by decide

/-- DS12: a lit pixel is turned off, its neighbour on, and VF is 1. -/
theorem test_drw_collision :
    (after 0xD011 { startLit 1 0 with mem := (startAt 0x300 [0xC0]).mem, i := 0x0300 }).fb =
        (startLit 0 0).fb ∧
      (after 0xD011 { startLit 1 0 with mem := (startAt 0x300 [0xC0]).mem, i := 0x0300 }).getV 0xF = 0x01 := by decide

/-- IN1. -/
theorem test_init :
    (start.init [0x12, 0x00]).pc = 0x0200 ∧ (start.init [0x12, 0x00]).readBytes 0x200 2 = [0x12, 0x00] ∧
      (start.init [0x12, 0x00]).readByte 0x04F = 0x80 ∧ (start.init [0x12, 0x00]).reports = [] := by decide

/-- IN4: `init` empties the log of a run that left a report. -/
theorem test_init_clears_reports : ((after 0x0123 start).init []).reports = [] := by decide

/-- The report codes (60_exceptions.md R701). -/
theorem test_report_codes :
    [none, some (.unimplementedOpcode 0 0), some (.stackOverflow 0), some (.stackUnderflow 0),
      some (.outOfRange none .fetch 0), some (.romTooLarge 0), some (.keyIndexOutOfRange 0 0)].map Report.code =
      [0, 1, 2, 3, 4, 5, 6] := by decide

/-- A state after one step. -/
def stepped (s : State) : State :=
  match step s with
  | .next t => t
  | _ => s

/-- The word the host places is the word the first step runs (EX10's word, at 0x0200). -/
theorem test_withFetchWord :
    (stepped (State.reset.withFetchWord 16 0x6A5C)).getV 0xA = 0x5C ∧
      (stepped (State.reset.withFetchWord 16 0x6A5C)).pc = 0x0202 := by decide

/-! ## Witnesses: states and operands that meet the statements' hypotheses, at the edges of their ranges -/

/-- The start state with a word where the next cpu tick fetches it, at an address. -/
def startWord (a : Nat) (w : Word) : State := (start.setPc (BitVec.ofNat 16 a)).placeWord w

theorem witness_EncodeOfDecodedWordIsTheWord : decodeWord 0xD12F = .ok (.drw 0x1 0x2 0xF) := by decide

theorem witness_DecoderAcceptsExactlyTheTableRows :
    decodeWord 0x800E = .ok (.shlReg 0x0 0x0) ∧ wordWellFormed 0x800E = true := by decide

/-- The last address a fetch can read, with a tick whose random byte is free and with one whose byte is given. -/
theorem witness_StepRunsTheDecodedInstruction :
    (startWord 0xFFE 0x6A5C).pc.toNat < 0xFFF ∧
      decodeBytes [(startWord 0xFFE 0x6A5C).readByte 0xFFE, (startWord 0xFFE 0x6A5C).readByte 0xFFF] =
        .ok (.ldImm 0xA 0x5C, []) ∧
      (startWord 0xFFE 0x6A5C).upcoming = .cpuTick none ∧
      ({ startWord 0xFFE 0x6A5C with schedule := [.cpuTick (some 0xAB)] } : State).schedule = .cpuTick (some 0xAB) :: [] := by decide

theorem witness_StepRunsTheNextTransaction :
    ({ start with schedule := [.init [0x12, 0x00]] } : State).schedule = .init [0x12, 0x00] :: [] ∧
      ({ start with schedule := [.cpuTick (some 0xAB)] } : State).schedule = .cpuTick (some 0xAB) :: [] ∧
      ({ start with schedule := [.timerTick] } : State).schedule = .timerTick :: [] ∧
      ({ start with schedule := [.setKeys start.keys] } : State).schedule = .setKeys start.keys :: [] ∧
      start.schedule = [] := by decide

theorem witness_EveryInterleavingIsARun : start.schedule = [] := by decide

theorem witness_UnimplementedWordIsReported :
    (startWord 0xFFE 0x0123).pc.toNat < 0xFFF ∧
      wordWellFormed ((startWord 0xFFE 0x0123).readWord (startWord 0xFFE 0x0123).pc.toNat) = false := by decide

theorem witness_OutOfRangeFetchIsReported :
    0xFFF ≤ (start.setPc 0x0FFF).pc.toNat ∧ 0xFFF ≤ (start.setPc 0x1000).pc.toNat := by decide

theorem witness_OutOfRangeFetchRepeatsForever :
    0xFFF ≤ (start.setPc 0x0FFF).pc.toNat ∧
      ({ start.setPc 0x0FFF with schedule := [.cpuTick none, .cpuTick (some 0xAB), .timerTick] } : State).schedule =
        [none, some 0xAB].map Transaction.cpuTick ++ [.timerTick] := by decide

theorem witness_CallPushesAndJumps : (startDepth 15).sp.val < 16 ∧ start.sp.val < 16 := by decide

theorem witness_ReturnPopsIntoPc : 0 < (startDepth 1).sp.val ∧ 0 < (startDepth 16).sp.val := by decide

theorem witness_StackErrorsAreReported : (startDepth 16).sp.val = 16 ∧ start.sp.val = 0 := by decide

theorem witness_NestedCallsReturnInReverse :
    start.sp.val + (List.replicate 16 (0x300 : Addr12)).length ≤ 16 := by decide

theorem witness_AddWithCarryGivesTheNineBitSum : (0xE : Nibble) ≠ 0xF ∧ (0xF : Nibble) = 0xF := by decide

theorem witness_SubtractionsSetNoBorrow : (0xE : Nibble) ≠ 0xF := by decide

theorem witness_ShiftsTakeTheirValueFromVy : (0xE : Nibble) ≠ 0xF ∧ (0xF : Nibble) = 0xF := by decide

theorem witness_RandomByteIsMasked :
    (startWord 0xFFE 0xC30F).pc.toNat < 0xFFF ∧
      (startWord 0xFFE 0xC30F).readWord (startWord 0xFFE 0xC30F).pc.toNat =
        BitVec.ofNat 16 (0xC000 + 256 * (0x3 : Nibble).toNat + (0x0F : Byte).toNat) := by decide

theorem witness_BcdStoresThreeDigits : (start.setI 0x0FFD).i.toNat + 2 ≤ 0xFFF := by decide

theorem witness_BlockStoreWritesV0ToVx : (start.setI 0x0FF0).i.toNat + (0xF : Nibble).toNat ≤ 0xFFF := by decide

theorem witness_BlockLoadReadsV0ToVx : (start.setI 0x0FFF).i.toNat + (0x0 : Nibble).toNat ≤ 0xFFF := by decide

/-- Each clause at its first out-of-range I, and at the largest I. -/
theorem witness_OutOfRangeTransfersAreReported :
    0xFFF < (start.setI 0x0FFE).i.toNat + 2 ∧ 0xFFF < (start.setI 0x0FFF).i.toNat + (0x1 : Nibble).toNat ∧
      0xFFF < (start.setI 0x1000).i.toNat + (0x0 : Nibble).toNat ∧
      (0x2 : Nibble) ≠ 0x0 ∧ 0xFFF < (start.setI 0x0FFF).i.toNat + (0x2 : Nibble).toNat - 1 ∧
      (0x1 : Nibble) ≠ 0x0 ∧ 0xFFF < (start.setI 0xFFFF).i.toNat + (0x1 : Nibble).toNat - 1 := by decide

theorem witness_BlockLoadRestoresABlockStore :
    (start.setI 0x0300).i.toNat + (0x2 : Nibble).toNat ≤ 0xFFF ∧
      ∃ t u, exec (.storeRegs 0x2) (start.setI 0x0300) = .next t ∧
        exec (.loadRegs 0x2) { t with v := Vector.replicate 16 0x99 } = .next u :=
  ⟨by decide, _, _, rfl, rfl⟩

theorem witness_TimersNeverGoBelowZero :
    ({ start with schedule := [.timerTick, .timerTick, .cpuTick (some 0xAB)] } : State).schedule =
      List.replicate 2 .timerTick ++ [.cpuTick (some 0xAB)] := by decide

theorem witness_SkipsOnKey : ((start.setV 0x1 0x0F).getV 0x1).toNat < 16 := by decide

theorem witness_KeyIndexAboveFifteenIsReported :
    16 ≤ ((start.setV 0x1 0x10).getV 0x1).toNat ∧ 16 ≤ ((start.setV 0x1 0xFF).getV 0x1).toNat := by decide

theorem witness_WaitKeyTakesTheLowestKeyOrRewinds :
    ((startKeys [5, 9]).keys[5] = true ∧ ∀ j : Fin 16, j < 5 → (startKeys [5, 9]).keys[j.val] = false) ∧
      ((startKeys [15]).keys[15] = true ∧ ∀ j : Fin 16, j < 15 → (startKeys [15]).keys[j.val] = false) ∧
      ∀ k : Fin 16, start.keys[k.val] = false := by decide

theorem witness_WaitKeySpinsWithoutAKey :
    (startWord 0xFFE 0xF30A).schedule = [none].map Transaction.cpuTick ++ [] ∧ (startWord 0xFFE 0xF30A).pc.toNat < 0xFFF ∧
      (startWord 0xFFE 0xF30A).readWord (startWord 0xFFE 0xF30A).pc.toNat =
        BitVec.ofNat 16 (0xF00A + 256 * (0x3 : Nibble).toNat) ∧
      ∀ j : Fin 16, (startWord 0xFFE 0xF30A).keys[j.val] = false := by decide

/-- A sprite of one set pixel at the last byte of memory: on a dark screen, and on one whose pixel there is lit. -/
theorem witness_DrawFlipsTheCoveredPixels :
    (0x0 : Nibble) = 0x0 ∧ (startAt 0xFFF [0x80]).i.toNat + (0x1 : Nibble).toNat - 1 ≤ 0xFFF ∧
      State.spriteCollides { startLit 0 0 with mem := (startAt 0xFFF [0x80]).mem, i := 0x0FFF } 0x0 0x1 0x1 ∧
      ¬ State.spriteCollides (startAt 0xFFF [0x80]) 0x0 0x1 0x1 := by
  refine ⟨by decide, by decide, ⟨0, 0, by decide⟩, ?_⟩
  rintro ⟨c, r, -, -, -, h⟩
  rw [show (startAt 0xFFF [0x80]).fb = Framebuffer.dark from rfl, Framebuffer.pixel_dark] at h
  cases h

theorem witness_DrawingTwiceRestoresTheScreen :
    (startAt 0x300 [0x80]).i.toNat + (0x1 : Nibble).toNat - 1 ≤ 0xFFF ∧
      ∃ t u, exec (.drw 0x0 0x1 0x1) (startAt 0x300 [0x80]) = .next t ∧
        exec (.drw 0x0 0x1 0x1) { t with v := (startAt 0x300 [0x80]).v } = .next u :=
  ⟨by decide, _, _, rfl, rfl⟩

theorem witness_InitPlacesFontAndRom :
    (List.replicate 3584 (0xAA : Byte)).length ≤ 3584 ∧ ([] : List Byte).length ≤ 3584 :=
  ⟨(List.length_replicate).le, Nat.zero_le _⟩

theorem witness_OversizedRomIsRejectedWhole : 3584 < (List.replicate 3585 (0xAA : Byte)).length := by
  rw [List.length_replicate]
  decide

/-- A tick with a report and a tick without. -/
theorem witness_AtMostOneReportPerTick :
    ∃ t u, start.cpuTick (some 0xAB) = .next t ∧ t.reports ≠ start.reports ∧
      (startWord 0x200 0x6A5C).cpuTick none = .next u ∧ u.reports = start.reports :=
  ⟨_, _, rfl, by decide, rfl, by decide⟩

theorem witness_AbortedInstructionChangesNothingElse :
    ∃ t, exec .ret start = .next t ∧ t.reports ≠ start.reports := ⟨_, rfl, by decide⟩

/-- A completed clear and a completed draw, and a tick that is neither. -/
theorem witness_RenderExactlyOnCompletedClearOrDraw :
    (∃ t, (startWord 0x200 0x00E0).cpuTick none = .next t ∧ t.reports = start.reports ∧
      decodeWord ((startWord 0x200 0x00E0).readWord 0x200) = .ok .cls) ∧
    (∃ t, (startWord 0x200 0xD015).cpuTick none = .next t ∧ t.reports = start.reports ∧
      decodeWord ((startWord 0x200 0xD015).readWord 0x200) = .ok (.drw 0x0 0x1 0x5)) ∧
    ∃ t, start.cpuTick none = .next t ∧ t.reports ≠ start.reports :=
  ⟨⟨_, rfl, by decide, by decide⟩, ⟨_, rfl, by decide, by decide⟩, ⟨_, rfl, by decide⟩⟩

/-- Each clause's change really happens. -/
theorem witness_WritersOfTheControlState :
    (∃ t, exec (.call 0x400) start = .next t ∧ t.sp ≠ start.sp) ∧
      (∃ t, exec (.ldI 0x123) start = .next t ∧ t.i ≠ start.i) ∧
      (∃ t, exec (.ldDtVx 0x0) (start.setV 0x0 1) = .next t ∧ t.dt ≠ start.dt) ∧
      ∃ t, exec (.ldStVx 0x0) (start.setV 0x0 1) = .next t ∧ t.st ≠ start.st :=
  ⟨⟨_, rfl, by decide⟩, ⟨_, rfl, by decide⟩, ⟨_, rfl, by decide⟩, ⟨_, rfl, by decide⟩⟩

theorem witness_WritersOfScreenAndMemory :
    (∃ t, exec .cls (startLit 3 4) = .next t ∧ t.fb ≠ (startLit 3 4).fb) ∧
      (∃ t, exec (.ldB 0x0) ((start.setV 0x0 215).setI 0x0FFD) = .next t ∧ t.readByte 0xFFF ≠ start.readByte 0xFFF) ∧
      ∃ t, exec (.storeRegs 0x0) start = .next t ∧ t.readByte 0 ≠ start.readByte 0 :=
  ⟨⟨_, rfl, by decide⟩, ⟨_, rfl, by decide⟩, ⟨_, rfl, by decide⟩⟩

theorem witness_WritersOfTheFlagRegister :
    ∃ t, exec (.addReg 0x0 0x0) (start.setV 0x0 0x80) = .next t ∧ t.getV 0xF ≠ (start.setV 0x0 0x80).getV 0xF :=
  ⟨_, rfl, by decide⟩

theorem witness_ReportLogOnlyGrows :
    ∃ t, step (startWord 0x200 0x6A5C) = .next t ∧ ∀ rom, (startWord 0x200 0x6A5C).upcoming ≠ .init rom :=
  ⟨_, rfl, fun _ h => by cases h⟩

theorem witness_StepKeepsMemoryCanonical : start.memoryCanonical ∧ ∃ t, step start = .next t :=
  ⟨reset_memory_wf, State.transact_next _ _⟩

/-- The largest PC, and frames at their bound. -/
theorem witness_StepKeepsPcBounded :
    ({ start with pc := 0x10FE, stack := Vector.replicate 16 0x1000 } : State).pcBounded ∧
      ∃ t, step { start with pc := 0x10FE, stack := Vector.replicate 16 0x1000 } = .next t :=
  ⟨by decide, State.transact_next _ _⟩

end Sys2Proof.Machine
end

section
/-! Proofs about the outputs of a cpu tick: the report log and the render notifications (10_state.md R62, R63). -/

namespace Sys2Proof.Machine

/-- The two instructions of the display engine, 00E0 and Dxyn (45_display.md). -/
def drawsScreen : Instr → Bool
  | .cls | .drw _ _ _ => true
  | _ => false

theorem drawsScreen_iff (i : Instr) : drawsScreen i = true ↔ i = .cls ∨ ∃ x y n, i = .drw x y n := by
  cases i <;> simp [drawsScreen]

/-- Reads the outputs off an equation that describes the next state field by field. -/
theorem outputs_of_eq {t u : State} (h : t = u) : t.reports = u.reports ∧ t.renders = u.renders :=
  ⟨congrArg State.reports h, congrArg State.renders h⟩

/-- An instruction that raises no report logs none, and it renders exactly when it is one of the display engine. -/
theorem ExecShape.outputs {i : Instr} {s t : State} (h : ExecShape i s t) :
    t.reports = s.reports ∧
      t.renders = if drawsScreen i then s.renders ++ [⟨64, 32, t.fb⟩] else s.renders := by
  cases i
  case seImm | sneImm | seReg | sneReg | skp | sknp =>
    obtain h | h := h <;> exact (outputs_of_eq h :)
  case ldVxK =>
    obtain h | ⟨h, -⟩ := h <;> exact (outputs_of_eq h :)
  case ldB | storeRegs =>
    obtain ⟨h, -⟩ := h
    exact (outputs_of_eq (h.trans (State.writeBytes_eq _ _ _)) :)
  case cls | jp | jpV0 | ldI | addI | ldF | ldDtVx | ldStVx =>
    have h : t = _ := h
    exact (outputs_of_eq h :)
  all_goals
    obtain ⟨h, -⟩ := h
    exact (outputs_of_eq h :)

/-- The outputs of a cpu tick: one report at the fetch address and no render; or no report, and a render exactly when the
word at PC decodes to an instruction of the display engine. -/
theorem State.cpuTick_outputs {s t : State} {rnd : Option Byte} (h : s.cpuTick rnd = .next t) :
    (∃ r, t.reports = s.reports ++ [⟨some s.pc, r⟩] ∧ t.renders = s.renders) ∨
      (s.pc.toNat < 0xFFF ∧ ∃ i, decodeWord (s.readWord s.pc.toNat) = .ok i ∧ t.reports = s.reports ∧
        t.renders = if drawsScreen i then s.renders ++ [⟨64, 32, t.fb⟩] else s.renders) := by
  obtain ⟨u, hu, hc⟩ := s.cpuTick_shape rnd
  obtain rfl : t = u := by simpa [h] using hu
  obtain ⟨r, ht, -⟩ | ⟨hpc, i, hi, hshape⟩ := hc
  · exact .inl ⟨r, (outputs_of_eq ht :)⟩
  · exact .inr ⟨hpc, i, hi, hshape.outputs⟩

/-- Settles O50: the two outcomes of `State.cpuTick_outputs`, as far as they concern the log. -/
theorem atMostOneReportPerTick : Obligations.AtMostOneReportPerTick := by
  intro s t rnd h
  obtain ⟨r, hrep, -⟩ | ⟨-, i, -, hrep, -⟩ := State.cpuTick_outputs h
  · exact .inr ⟨r, hrep⟩
  · exact .inl hrep

/-- Settles O52: a tick that reports is not completed and does not render; in a tick that does not report, completed says
that the word's instruction is one of the display engine, which is when `State.cpuTick_outputs` renders. -/
theorem renderExactlyOnCompletedClearOrDraw : Obligations.RenderExactlyOnCompletedClearOrDraw := by
  intro s t rnd h completed
  obtain ⟨r, hrep, hren⟩ | ⟨hpc, i, hi, hrep, hren⟩ := State.cpuTick_outputs h
  · have not_completed : ¬ completed := fun ⟨_, hlog, _⟩ => by simp [hrep] at hlog
    exact ⟨fun hc => absurd hc not_completed, fun _ => hren⟩
  · have completed_iff : completed ↔ drawsScreen i = true := by
      simp [completed, hpc, hrep, hi, drawsScreen_iff]
    rw [completed_iff, hren]
    exact ⟨fun hd => if_pos hd, fun hd => if_neg hd⟩

end Sys2Proof.Machine
end

section
/-! Proofs about the fields of an instruction word (30_encoding.md R101). -/

namespace Sys2Proof

/-- A bit range of a word read as a number is the word shifted down and masked. -/
theorem extractLsb'_toNat_eq_and (w : Word) (start len : Nat) :
    (w.extractLsb' start len).toNat = (w.toNat >>> start) &&& (2 ^ len - 1) := by
  rw [BitVec.extractLsb'_toNat, Nat.and_two_pow_sub_one_eq_mod]

/-- The top field needs no mask: a word shifted down by 12 has 4 bits left. -/
theorem fieldsOf_op_toNat (w : Word) : (fieldsOf w).op.toNat = w.toNat >>> 12 := by
  have hlt : w.toNat >>> 12 < 2 ^ 4 := by
    rw [Nat.shiftRight_eq_div_pow]
    omega
  exact (BitVec.extractLsb'_toNat 12 4 w).trans (Nat.mod_eq_of_lt hlt)

/-- The overlaps of the fields: every word is put together from op, x, y and n, and the fields of such a word overlap. -/
theorem fieldsOf_overlap (w : Word) :
    (fieldsOf w).nn = (fieldsOf w).y ++ (fieldsOf w).n ∧
      (fieldsOf w).nnn = (fieldsOf w).x ++ (fieldsOf w).y ++ (fieldsOf w).n := by
  have h := fieldsOf_wordXYN (fieldsOf w).op (fieldsOf w).x (fieldsOf w).y (fieldsOf w).n
  rw [wordXYN_fieldsOf] at h
  exact ⟨congrArg Fields.nn h, congrArg Fields.nnn h⟩

/-- Settles O1: a masked shift for each field, no mask for op, and the two overlaps. -/
theorem fieldsFollowTheBitPositions : Obligations.FieldsFollowTheBitPositions := fun w =>
  ⟨fieldsOf_op_toNat w, extractLsb'_toNat_eq_and w 0 12, extractLsb'_toNat_eq_and w 0 8,
    extractLsb'_toNat_eq_and w 0 4, extractLsb'_toNat_eq_and w 8 4, extractLsb'_toNat_eq_and w 4 4,
    fieldsOf_overlap w⟩

end Sys2Proof
end

section
/-! Proofs about the words the decoder accepts: each is the encoding of the instruction it stands for, so it matches a row of
the opcode map (30_encoding.md R103, R104). -/

namespace Sys2Proof

/-! ## A word accepted by a family is put together from the family's op and the fields -/

theorem decodeFamily0_ok {w : Word} {f : Fields} {i : Instr} (h : decodeFamily0 w f = .ok i) :
    encode i = wordNNN 0x0 f.nnn := by
  unfold decodeFamily0 at h
  split at h <;> cases h <;> simp only [*] <;> rfl

theorem decodeFamily5_ok {w : Word} {f : Fields} {i : Instr} (h : decodeFamily5 w f = .ok i) :
    encode i = wordXYN 0x5 f.x f.y f.n := by
  unfold decodeFamily5 at h
  split at h
  · next hn => cases h; rw [hn]; rfl
  · cases h

theorem decodeFamily8_ok {w : Word} {f : Fields} {i : Instr} (h : decodeFamily8 w f = .ok i) :
    encode i = wordXYN 0x8 f.x f.y f.n := by
  unfold decodeFamily8 at h
  split at h <;> cases h <;> simp only [*] <;> rfl

theorem decodeFamily9_ok {w : Word} {f : Fields} {i : Instr} (h : decodeFamily9 w f = .ok i) :
    encode i = wordXYN 0x9 f.x f.y f.n := by
  unfold decodeFamily9 at h
  split at h
  · next hn => cases h; rw [hn]; rfl
  · cases h

theorem decodeFamilyE_ok {w : Word} {f : Fields} {i : Instr} (h : decodeFamilyE w f = .ok i) :
    encode i = wordXNN 0xE f.x f.nn := by
  unfold decodeFamilyE at h
  split at h <;> cases h <;> simp only [*] <;> rfl

theorem decodeFamilyF_ok {w : Word} {f : Fields} {i : Instr} (h : decodeFamilyF w f = .ok i) :
    encode i = wordXNN 0xF f.x f.nn := by
  unfold decodeFamilyF at h
  split at h <;> cases h <;> simp only [*] <;> rfl

/-- The encoder gives an accepted word back: its op selects the family, and op and the fields make the word up again. -/
theorem encode_of_decodeWord_ok {w : Word} {i : Instr} (h : decodeWord w = .ok i) : encode i = w := by
  have xyn := wordXYN_fieldsOf w
  have xnn := wordXNN_fieldsOf w
  have nnn := wordNNN_fieldsOf w
  unfold decodeWord at h
  dsimp only at h
  generalize (fieldsOf w).op = op at h xyn xnn nnn
  split at h
  case h_1 => exact (decodeFamily0_ok h).trans nnn
  case h_6 => exact (decodeFamily5_ok h).trans xyn
  case h_9 => exact (decodeFamily8_ok h).trans xyn
  case h_10 => exact (decodeFamily9_ok h).trans xyn
  case h_15 => exact (decodeFamilyE_ok h).trans xnn
  case h_16 =>
    obtain rfl : op = 0xF := by clear h xyn xnn nnn; decide +revert
    exact (decodeFamilyF_ok h).trans xnn
  case h_2 | h_3 | h_11 | h_12 => cases h; exact nnn
  case h_4 | h_5 | h_7 | h_8 | h_13 => cases h; exact xnn
  case h_14 => cases h; exact xyn

/-! ## An accepted word matches a row of the opcode map -/

/-- The lemma family `Laws.OpcodeRow` as one statement about every instruction. -/
theorem opcodeRow_statement (i : Instr) : Laws.OpcodeRow.Statement i :=
  match i with
  | .cls => Laws.OpcodeRow.cls
  | .ret => Laws.OpcodeRow.ret
  | .jp nnn => Laws.OpcodeRow.jp nnn
  | .call nnn => Laws.OpcodeRow.call nnn
  | .seImm x nn => Laws.OpcodeRow.seImm x nn
  | .sneImm x nn => Laws.OpcodeRow.sneImm x nn
  | .seReg x y => Laws.OpcodeRow.seReg x y
  | .ldImm x nn => Laws.OpcodeRow.ldImm x nn
  | .addImm x nn => Laws.OpcodeRow.addImm x nn
  | .ldReg x y => Laws.OpcodeRow.ldReg x y
  | .orReg x y => Laws.OpcodeRow.orReg x y
  | .andReg x y => Laws.OpcodeRow.andReg x y
  | .xorReg x y => Laws.OpcodeRow.xorReg x y
  | .addReg x y => Laws.OpcodeRow.addReg x y
  | .subReg x y => Laws.OpcodeRow.subReg x y
  | .shrReg x y => Laws.OpcodeRow.shrReg x y
  | .subnReg x y => Laws.OpcodeRow.subnReg x y
  | .shlReg x y => Laws.OpcodeRow.shlReg x y
  | .sneReg x y => Laws.OpcodeRow.sneReg x y
  | .ldI nnn => Laws.OpcodeRow.ldI nnn
  | .jpV0 nnn => Laws.OpcodeRow.jpV0 nnn
  | .rnd x nn => Laws.OpcodeRow.rnd x nn
  | .drw x y n => Laws.OpcodeRow.drw x y n
  | .skp x => Laws.OpcodeRow.skp x
  | .sknp x => Laws.OpcodeRow.sknp x
  | .ldVxDt x => Laws.OpcodeRow.ldVxDt x
  | .ldVxK x => Laws.OpcodeRow.ldVxK x
  | .ldDtVx x => Laws.OpcodeRow.ldDtVx x
  | .ldStVx x => Laws.OpcodeRow.ldStVx x
  | .addI x => Laws.OpcodeRow.addI x
  | .ldF x => Laws.OpcodeRow.ldF x
  | .ldB x => Laws.OpcodeRow.ldB x
  | .storeRegs x => Laws.OpcodeRow.storeRegs x
  | .loadRegs x => Laws.OpcodeRow.loadRegs x

/-- An accepted word matches the row of its instruction, which is in the opcode map. -/
theorem row_of_decodeWord_ok {w : Word} {i : Instr} (h : decodeWord w = .ok i) :
    i.row ∈ opcodeRows ∧ i.row.fits w = true := by
  have hrow := opcodeRow_statement i
  rwa [Laws.OpcodeRow.Statement, encode_of_decodeWord_ok h] at hrow

theorem wordWellFormed_of_decodeWord_ok {w : Word} {i : Instr} (h : decodeWord w = .ok i) :
    wordWellFormed w = true :=
  List.any_eq_true.mpr ⟨i.row, row_of_decodeWord_ok h⟩

end Sys2Proof
end

section
/-! Proofs about a cpu tick whose word is no instruction (40_execution_loop.md R135). -/

namespace Sys2Proof.Machine

/-- A word of no row is not executed: it raises its report with the address PC - 2. -/
theorem State.runWord_of_not_wellFormed (s : State) {w : Word} (h : wordWellFormed w = false) :
    s.runWord w = s.raise (.unimplementedOpcode w (s.pc - 2)) := by
  unfold State.runWord
  split
  · next i hi =>
    have hwf := wordWellFormed_of_decodeWord_ok hi
    simp [h] at hwf
  · rfl

/-- Settles O10: the tick runs the word with PC past it, and the report's addresses, PC - 2 there, are the fetch address. -/
theorem unimplementedWordIsReported : Obligations.UnimplementedWordIsReported := by
  intro s b hpc hw
  have fetch_address : (s.beginTick (some b)).advance.pc - 2 = s.pc := by simp
  rw [State.cpuTick_of_lt _ _ hpc, State.runWord_of_not_wellFormed _ hw, State.raise_eq, fetch_address]
  rfl

end Sys2Proof.Machine
end

section
/-! Proofs about the unconditional jump and the skips on a comparison (41_control_flow.md R201, R204 to R208). -/

namespace Sys2Proof.Machine

/-! ## The shared operations of control flow -/

/-- A target is extended by zeros. -/
@[simp] theorem toNat_zext16 (nnn : Addr12) : (zext16 nnn).toNat = nnn.toNat :=
  BitVec.toNat_setWidth_of_le (by decide)

theorem onlyPc_refl (s : State) : onlyPc s s := ⟨rfl, fun _ => rfl⟩

theorem onlyPc_setPc (s : State) (a : Word) : onlyPc s (s.setPc a) := ⟨rfl, s.readByte_setPc a⟩

theorem onlyPc_skipIf (s : State) (c : Bool) : onlyPc s (s.skipIf c) := by
  cases c
  · exact onlyPc_refl s
  · exact onlyPc_setPc s (s.pc + 2)

/-- A skip that is taken adds 2 to PC mod 2^16; one that is not taken leaves PC (R208). -/
theorem State.skipIf_pc_toNat (s : State) (c : Bool) :
    (s.skipIf c).pc.toNat = if c then (s.pc.toNat + 2) % 65536 else s.pc.toNat := by
  cases c
  · rfl
  · exact BitVec.toNat_add s.pc 2

/-- What an instruction does that skips on the condition c. -/
theorem exec_skips {i : Instr} {s : State} {c : Bool} (h : exec i s = .next (s.skipIf c)) :
    ∃ t, exec i s = .next t ∧ onlyPc s t ∧ t.pc.toNat = if c then (s.pc.toNat + 2) % 65536 else s.pc.toNat :=
  ⟨_, h, onlyPc_skipIf s c, s.skipIf_pc_toNat c⟩

/-! ## The obligations -/

/-- Settles O13: the jump is one write of PC. -/
theorem jumpGoesToItsTarget : Obligations.JumpGoesToItsTarget := fun nnn s =>
  ⟨s.setPc (zext16 nnn), rfl, toNat_zext16 nnn, onlyPc_setPc s _⟩

/-- Settles O19: each comparison is a skip on a Boolean test, which `exec_skips` covers; two bytes are equal when their
values are, and the two tests of inequality swap the branches. -/
theorem skipsOnComparisons : Obligations.SkipsOnComparisons := by
  intro x y nn s
  have se_imm := exec_skips (i := .seImm x nn) (s := s) rfl
  have sne_imm := exec_skips (i := .sneImm x nn) (s := s) rfl
  have se_reg := exec_skips (i := .seReg x y) (s := s) rfl
  have sne_reg := exec_skips (i := .sneReg x y) (s := s) rfl
  simp only [beq_iff_eq, bne_iff_ne, ne_eq, ite_not, ← BitVec.toNat_inj] at se_imm sne_imm se_reg sne_reg
  exact ⟨se_imm, sne_imm, se_reg, sne_reg⟩

end Sys2Proof.Machine
end

section
/-! Proofs about the loads and the immediate add of the register file (42_register_alu.md R300 to R302). -/

namespace Sys2Proof.Machine

/-! ## One register written -/

theorem onlyRegisters_setV (s : State) (x : Nibble) (b : Byte) : onlyRegisters s (s.setV x b) :=
  ⟨rfl, s.readByte_setV x b⟩

/-- What an instruction does whose whole effect is the byte b in Vx. -/
theorem exec_writes_register {i : Instr} {s : State} {x : Nibble} {b : Byte} (h : exec i s = .next (s.setV x b)) :
    ∃ t, exec i s = .next t ∧ t.getV x = b ∧ keepsRegistersBut [x] s t ∧ onlyRegisters s t :=
  ⟨_, h, s.getV_setV_same x b, keepsRegistersBut_setV s x b, onlyRegisters_setV s x b⟩

/-! ## The obligations -/

/-- Settles O20: each load is one write of Vx, with the immediate or with the byte of Vy before it. -/
theorem loadsWriteOneRegister : Obligations.LoadsWriteOneRegister := fun _ _ _ _ =>
  ⟨exec_writes_register rfl, exec_writes_register rfl⟩

/-- Settles O21: the add is one write of Vx with the sum of two bytes, which the byte's width takes mod 256. -/
theorem addImmediateWrapsWithoutFlag : Obligations.AddImmediateWrapsWithoutFlag := by
  intro x nn s
  obtain ⟨t, hexec, hsum, hregs, honly⟩ :=
    exec_writes_register (i := .addImm x nn) (s := s) (x := x) (b := s.getV x + nn) rfl
  have wraps : (t.getV x).toNat = ((s.getV x).toNat + nn.toNat) % 256 := by
    rw [hsum, BitVec.toNat_add]
  exact ⟨t, hexec, wraps, hregs, honly⟩

end Sys2Proof.Machine
end

section
/-! Proofs about the loads of the index register (43_index_memory.md R400). -/

namespace Sys2Proof.Machine

/-! ## The index register written -/

theorem onlyI_setI (s : State) (a : Word) : onlyI s (s.setI a) := ⟨rfl, s.readByte_setI a⟩

/-! ## The obligations -/

/-- Settles O27: the load is one write of I with the zero-extended address. -/
theorem loadIndexTakesTheAddress : Obligations.LoadIndexTakesTheAddress := fun nnn s =>
  ⟨s.setI (zext16 nnn), rfl, toNat_zext16 nnn, onlyI_setI s _⟩

end Sys2Proof.Machine
end

section
/-! Proofs about the delay timer and the timer tick (44_timers_keys.md R500 to R502). -/

namespace Sys2Proof.Machine

/-! ## The delay timer written -/

theorem onlyDt_setDt (s : State) (b : Byte) : onlyDt s (s.setDt b) := ⟨rfl, s.readByte_setDt b⟩

/-! ## The timers counted down -/

/-- A byte that goes down by 1 unless it is 0 goes down as a number does, whose subtraction stops at 0. -/
theorem toNat_decrement_unless_zero (b : Byte) : (if b = 0x00 then 0x00 else b - 1).toNat = b.toNat - 1 := by
  split
  case isTrue hzero => simp [hzero]
  case isFalse hpos => bv_omega

theorem State.timerTick_dt_toNat (s : State) : s.timerTick.dt.toNat = s.dt.toNat - 1 :=
  toNat_decrement_unless_zero s.dt

theorem State.timerTick_st_toNat (s : State) : s.timerTick.st.toNat = s.st.toNat - 1 :=
  toNat_decrement_unless_zero s.st

/-! ## The obligations -/

/-- Settles O34: the read is one write of Vx with the byte of DT, and the write is one write of DT with the byte of Vx. -/
theorem delayTimerIsReadAndSet : Obligations.DelayTimerIsReadAndSet := fun x s =>
  ⟨exec_writes_register rfl, s.setDt (s.getV x), rfl, s.setDt_dt _, onlyDt_setDt s _⟩

/-- Settles O36: the tick answers `State.timerTick`, which writes the two timers and nothing else. -/
theorem timerTickCountsDown : Obligations.TimerTickCountsDown := fun s =>
  ⟨s.timerTick, rfl, s.timerTick_dt_toNat, s.timerTick_st_toNat, rfl⟩

end Sys2Proof.Machine
end

section
/-! Proofs about the clear-screen instruction (45_display.md R601). -/

namespace Sys2Proof.Machine

/-! ## The screen replaced and rendered -/

theorem keepsMemory_setFb_render (s : State) (f : Framebuffer) : keepsMemory s (s.setFb f).render := fun a => by
  rw [State.readByte_render, State.readByte_setFb]

/-- The notification carries the new screen and not the one it replaces. -/
theorem State.renders_setFb_render (s : State) (f : Framebuffer) :
    (s.setFb f).render.renders = s.renders ++ [⟨64, 32, f⟩] := by
  rw [State.render_renders, State.setFb_renders, State.setFb_fb]

/-! ## The obligations -/

/-- Settles O42: the instruction replaces the screen by the dark one and renders it; both operations keep the rest. -/
theorem clearScreenDarkensAndRenders : Obligations.ClearScreenDarkensAndRenders := fun s =>
  ⟨(s.setFb Framebuffer.dark).render, rfl, Framebuffer.pixel_dark, s.renders_setFb_render _, rfl,
    keepsMemory_setFb_render s _⟩

end Sys2Proof.Machine
end

section
/-! Proofs about the round trip of the decoder and the encoder, and about the words that match a row of the opcode map
(30_encoding.md R101, R103, R104). -/

namespace Sys2Proof

/-! ## Decoding an encoded instruction -/

/-- The word of an instruction has the fields it was put together from, and on those the keyed dispatch computes. -/
theorem decodeWord_encode (i : Instr) : decodeWord (encode i) = .ok i := by
  cases i
  case cls | ret => rfl
  case jp nnn | call nnn | ldI nnn | jpV0 nnn =>
    unfold decodeWord
    rw [encode, fieldsOf_wordNNN]
    rfl
  case seReg x y | ldReg x y | orReg x y | andReg x y | xorReg x y | addReg x y | subReg x y | shrReg x y |
      subnReg x y | shlReg x y | sneReg x y | drw x y n =>
    unfold decodeWord
    rw [encode, fieldsOf_wordXYN]
    rfl
  all_goals
    unfold decodeWord
    rw [encode, fieldsOf_wordXNN]
    rfl

/-! ## A word whose fixed bits are those of a row is put together from them and its own fields -/

theorem wordNNN_of_op {w : Word} {op : Nibble} (h : w &&& 0xF000 = wordNNN op 0) :
    wordNNN op (fieldsOf w).nnn = w := by
  have hop : (fieldsOf w).op = op := by
    rw [← wordNNN_fieldsOf w, Laws.OpcodeRow.wordNNN_op] at h
    simpa [fieldsOf_wordNNN] using congrArg (fun u => (fieldsOf u).op) h
  rw [← hop, wordNNN_fieldsOf]

theorem wordXNN_of_op {w : Word} {op : Nibble} (h : w &&& 0xF000 = wordXNN op 0 0) :
    wordXNN op (fieldsOf w).x (fieldsOf w).nn = w := by
  have hop : (fieldsOf w).op = op := by
    rw [← wordXNN_fieldsOf w, Laws.OpcodeRow.wordXNN_op] at h
    simpa [fieldsOf_wordXNN] using congrArg (fun u => (fieldsOf u).op) h
  rw [← hop, wordXNN_fieldsOf]

theorem wordXNN_of_op_nn {w : Word} {op : Nibble} {nn : Byte} (h : w &&& 0xF0FF = wordXNN op 0 nn) :
    wordXNN op (fieldsOf w).x nn = w := by
  have hfields : (fieldsOf w).op = op ∧ (fieldsOf w).nn = nn := by
    rw [← wordXNN_fieldsOf w, Laws.OpcodeRow.wordXNN_op_nn] at h
    simpa [fieldsOf_wordXNN] using congrArg (fun u => ((fieldsOf u).op, (fieldsOf u).nn)) h
  obtain ⟨hop, hnn⟩ := hfields
  rw [← hop, ← hnn, wordXNN_fieldsOf]

theorem wordXYN_of_op {w : Word} {op : Nibble} (h : w &&& 0xF000 = wordXYN op 0 0 0) :
    wordXYN op (fieldsOf w).x (fieldsOf w).y (fieldsOf w).n = w := by
  have hop : (fieldsOf w).op = op := by
    rw [← wordXYN_fieldsOf w, Laws.OpcodeRow.wordXYN_op] at h
    simpa [fieldsOf_wordXYN] using congrArg (fun u => (fieldsOf u).op) h
  rw [← hop, wordXYN_fieldsOf]

theorem wordXYN_of_op_n {w : Word} {op n : Nibble} (h : w &&& 0xF00F = wordXYN op 0 0 n) :
    wordXYN op (fieldsOf w).x (fieldsOf w).y n = w := by
  have hfields : (fieldsOf w).op = op ∧ (fieldsOf w).n = n := by
    rw [← wordXYN_fieldsOf w, Laws.OpcodeRow.wordXYN_op_n] at h
    simpa [fieldsOf_wordXYN] using congrArg (fun u => ((fieldsOf u).op, (fieldsOf u).n)) h
  obtain ⟨hop, hn⟩ := hfields
  rw [← hop, ← hn, wordXYN_fieldsOf]

/-! ## A word that matches a row of the opcode map is the encoding of an instruction -/

theorem exists_encode_of_fits_low {w : Word} {r : OpcodeRow} (hr : r ∈ opcodeRowsLow) (h : r.fits w = true) :
    ∃ i, encode i = w := by
  simp only [OpcodeRow.fits, beq_iff_eq] at h
  have hmask : w &&& 0xFFFF = w := BitVec.and_allOnes
  simp only [opcodeRowsLow, List.mem_cons, List.not_mem_nil, or_false] at hr
  obtain rfl | rfl | rfl | rfl | rfl | rfl | rfl | rfl | rfl := hr
  · exact ⟨.cls, (hmask.symm.trans h).symm⟩
  · exact ⟨.ret, (hmask.symm.trans h).symm⟩
  · exact ⟨.jp _, wordNNN_of_op h⟩
  · exact ⟨.call _, wordNNN_of_op h⟩
  · exact ⟨.seImm _ _, wordXNN_of_op h⟩
  · exact ⟨.sneImm _ _, wordXNN_of_op h⟩
  · exact ⟨.seReg _ _, wordXYN_of_op_n h⟩
  · exact ⟨.ldImm _ _, wordXNN_of_op h⟩
  · exact ⟨.addImm _ _, wordXNN_of_op h⟩

theorem exists_encode_of_fits_alu {w : Word} {r : OpcodeRow} (hr : r ∈ opcodeRowsAlu) (h : r.fits w = true) :
    ∃ i, encode i = w := by
  simp only [OpcodeRow.fits, beq_iff_eq] at h
  simp only [opcodeRowsAlu, List.mem_cons, List.not_mem_nil, or_false] at hr
  obtain rfl | rfl | rfl | rfl | rfl | rfl | rfl | rfl | rfl := hr
  · exact ⟨.ldReg _ _, wordXYN_of_op_n h⟩
  · exact ⟨.orReg _ _, wordXYN_of_op_n h⟩
  · exact ⟨.andReg _ _, wordXYN_of_op_n h⟩
  · exact ⟨.xorReg _ _, wordXYN_of_op_n h⟩
  · exact ⟨.addReg _ _, wordXYN_of_op_n h⟩
  · exact ⟨.subReg _ _, wordXYN_of_op_n h⟩
  · exact ⟨.shrReg _ _, wordXYN_of_op_n h⟩
  · exact ⟨.subnReg _ _, wordXYN_of_op_n h⟩
  · exact ⟨.shlReg _ _, wordXYN_of_op_n h⟩

theorem exists_encode_of_fits_high {w : Word} {r : OpcodeRow} (hr : r ∈ opcodeRowsHigh) (h : r.fits w = true) :
    ∃ i, encode i = w := by
  simp only [OpcodeRow.fits, beq_iff_eq] at h
  simp only [opcodeRowsHigh, List.mem_cons, List.not_mem_nil, or_false] at hr
  obtain rfl | rfl | rfl | rfl | rfl | rfl | rfl | rfl | rfl | rfl | rfl | rfl | rfl | rfl | rfl | rfl := hr
  · exact ⟨.sneReg _ _, wordXYN_of_op_n h⟩
  · exact ⟨.ldI _, wordNNN_of_op h⟩
  · exact ⟨.jpV0 _, wordNNN_of_op h⟩
  · exact ⟨.rnd _ _, wordXNN_of_op h⟩
  · exact ⟨.drw _ _ _, wordXYN_of_op h⟩
  · exact ⟨.skp _, wordXNN_of_op_nn h⟩
  · exact ⟨.sknp _, wordXNN_of_op_nn h⟩
  · exact ⟨.ldVxDt _, wordXNN_of_op_nn h⟩
  · exact ⟨.ldVxK _, wordXNN_of_op_nn h⟩
  · exact ⟨.ldDtVx _, wordXNN_of_op_nn h⟩
  · exact ⟨.ldStVx _, wordXNN_of_op_nn h⟩
  · exact ⟨.addI _, wordXNN_of_op_nn h⟩
  · exact ⟨.ldF _, wordXNN_of_op_nn h⟩
  · exact ⟨.ldB _, wordXNN_of_op_nn h⟩
  · exact ⟨.storeRegs _, wordXNN_of_op_nn h⟩
  · exact ⟨.loadRegs _, wordXNN_of_op_nn h⟩

theorem exists_encode_of_wordWellFormed {w : Word} (h : wordWellFormed w = true) : ∃ i, encode i = w := by
  obtain ⟨r, hr, hfits⟩ := List.any_eq_true.mp h
  simp only [opcodeRows, List.mem_append] at hr
  obtain (hr | hr) | hr := hr
  · exact exists_encode_of_fits_low hr hfits
  · exact exists_encode_of_fits_alu hr hfits
  · exact exists_encode_of_fits_high hr hfits

/-! ## The words of the instructions as numbers -/

theorem wordNNN_eq_ofNat {op : Nibble} {k : Nat} (h : 4096 * op.toNat = k) (nnn : Addr12) :
    wordNNN op nnn = BitVec.ofNat 16 (k + nnn.toNat) :=
  BitVec.eq_of_toNat_eq (by rw [toNat_wordNNN, BitVec.toNat_ofNat]; omega)

theorem wordXNN_eq_ofNat {op : Nibble} {nn : Byte} {k : Nat} (h : 4096 * op.toNat + nn.toNat = k) (x : Nibble) :
    wordXNN op x nn = BitVec.ofNat 16 (k + 256 * x.toNat) :=
  BitVec.eq_of_toNat_eq (by rw [toNat_wordXNN, BitVec.toNat_ofNat]; omega)

theorem encode_call (nnn : Addr12) : encode (.call nnn) = BitVec.ofNat 16 (0x2000 + nnn.toNat) :=
  wordNNN_eq_ofNat rfl nnn

theorem encode_rnd (x : Nibble) (nn : Byte) :
    encode (.rnd x nn) = BitVec.ofNat 16 (0xC000 + 256 * x.toNat + nn.toNat) :=
  BitVec.eq_of_toNat_eq (by rw [encode, toNat_wordXNN, BitVec.toNat_ofNat]; simp; omega)

theorem encode_drw (x y n : Nibble) :
    encode (.drw x y n) = BitVec.ofNat 16 (0xD000 + 256 * x.toNat + 16 * y.toNat + n.toNat) :=
  BitVec.eq_of_toNat_eq (by rw [encode, toNat_wordXYN, BitVec.toNat_ofNat]; simp; omega)

theorem encode_skp (x : Nibble) : encode (.skp x) = BitVec.ofNat 16 (0xE09E + 256 * x.toNat) := wordXNN_eq_ofNat rfl x

theorem encode_sknp (x : Nibble) : encode (.sknp x) = BitVec.ofNat 16 (0xE0A1 + 256 * x.toNat) := wordXNN_eq_ofNat rfl x

theorem encode_ldVxK (x : Nibble) : encode (.ldVxK x) = BitVec.ofNat 16 (0xF00A + 256 * x.toNat) :=
  wordXNN_eq_ofNat rfl x

theorem encode_ldB (x : Nibble) : encode (.ldB x) = BitVec.ofNat 16 (0xF033 + 256 * x.toNat) := wordXNN_eq_ofNat rfl x

theorem encode_storeRegs (x : Nibble) : encode (.storeRegs x) = BitVec.ofNat 16 (0xF055 + 256 * x.toNat) :=
  wordXNN_eq_ofNat rfl x

theorem encode_loadRegs (x : Nibble) : encode (.loadRegs x) = BitVec.ofNat 16 (0xF065 + 256 * x.toNat) :=
  wordXNN_eq_ofNat rfl x

/-! ## The obligations -/

/-- Settles O2: `decodeWord_encode`, for every instruction. -/
theorem decodeOfEncodeIsTheInstruction : Obligations.DecodeOfEncodeIsTheInstruction := decodeWord_encode

/-- Settles O3: each family's dispatch is undone by the encoder. -/
theorem encodeOfDecodedWordIsTheWord : Obligations.EncodeOfDecodedWordIsTheWord := fun _ _ => encode_of_decodeWord_ok

/-- Settles O4: a word of the table is an encoding, which decodes; a word that decodes matches its instruction's row. -/
theorem decoderAcceptsExactlyTheTableRows : Obligations.DecoderAcceptsExactlyTheTableRows := by
  intro w
  refine ⟨⟨fun ⟨_, hi⟩ => wordWellFormed_of_decodeWord_ok hi, fun hw => ?_⟩, fun _ => row_of_decodeWord_ok⟩
  obtain ⟨i, rfl⟩ := exists_encode_of_wordWellFormed hw
  exact ⟨i, decodeWord_encode i⟩

/-- Settles O5: the decoder computes on each word. -/
theorem sampleWordsDecode : Obligations.SampleWordsDecode := by
  unfold Obligations.SampleWordsDecode
  decide

end Sys2Proof
end

section
/-! Proofs about what an instruction may write, and the two invariants of the step (10_state.md, 20_memory.md section 4,
decision D19). -/

namespace Sys2Proof.Machine

/-! ## The fields an instruction may write -/

/-- The state s with the report log and the fields that the instruction may write as they stand in t. -/
def writtenBy (i : Instr) (s t : State) : State :=
  let u : State := { s with reports := t.reports }
  match i with
  | .cls => { u with fb := t.fb, renders := t.renders }
  | .drw _ _ _ => { u with v := t.v, fb := t.fb, renders := t.renders }
  | .ret => { u with pc := t.pc, sp := t.sp }
  | .call _ => { u with pc := t.pc, sp := t.sp, stack := t.stack }
  | .jp _ | .jpV0 _ | .seImm _ _ | .sneImm _ _ | .seReg _ _ | .sneReg _ _ | .skp _ | .sknp _ => { u with pc := t.pc }
  | .ldVxK _ => { u with pc := t.pc, v := t.v }
  | .ldImm _ _ | .addImm _ _ | .ldReg _ _ | .orReg _ _ | .andReg _ _ | .xorReg _ _ | .addReg _ _ | .subReg _ _
  | .shrReg _ _ | .subnReg _ _ | .shlReg _ _ | .rnd _ _ | .ldVxDt _ | .loadRegs _ => { u with v := t.v }
  | .ldI _ | .addI _ | .ldF _ => { u with i := t.i }
  | .ldDtVx _ => { u with dt := t.dt }
  | .ldStVx _ => { u with st := t.st }
  | .ldB _ | .storeRegs _ => { u with mem := t.mem }

/-- An instruction that raises no report writes no field but its own. -/
theorem ExecShape.eq_writtenBy {i : Instr} {s t : State} (h : ExecShape i s t) : t = writtenBy i s t := by
  cases i
  case seImm | sneImm | seReg | sneReg | skp | sknp =>
    obtain rfl | h := h
    · rfl
    · rw [h]; rfl
  case ldVxK =>
    obtain h | ⟨h, -⟩ := h <;> rw [h] <;> rfl
  case ldB | storeRegs =>
    obtain ⟨h, -⟩ := h
    rw [h, State.writeBytes_eq]; rfl
  case cls | jp | jpV0 | ldI | addI | ldF | ldDtVx | ldStVx =>
    rw [show t = _ from h]; rfl
  all_goals
    obtain ⟨h, -⟩ := h
    rw [h]; rfl

/-- An instruction writes no field but its own and the report log. -/
theorem exec_eq_writtenBy {i : Instr} {s t : State} (h : exec i s = .next t) : t = writtenBy i s t := by
  obtain ⟨r, rfl⟩ | hshape := exec_cases h
  · cases i <;> rfl
  · exact hshape.eq_writtenBy

/-! ## Who writes a field -/

theorem writtenBy_stack (i : Instr) (s t : State) :
    ((writtenBy i s t).sp = s.sp ∧ (writtenBy i s t).stack = s.stack) ∨ i = .ret ∨ ∃ nnn, i = .call nnn := by
  cases i <;> simp [writtenBy]

theorem writtenBy_i (i : Instr) (s t : State) :
    (writtenBy i s t).i = s.i ∨ (∃ nnn, i = .ldI nnn) ∨ (∃ x, i = .addI x) ∨ ∃ x, i = .ldF x := by
  cases i <;> simp [writtenBy]

theorem writtenBy_dt (i : Instr) (s t : State) : (writtenBy i s t).dt = s.dt ∨ ∃ x, i = .ldDtVx x := by
  cases i <;> simp [writtenBy]

theorem writtenBy_st (i : Instr) (s t : State) : (writtenBy i s t).st = s.st ∨ ∃ x, i = .ldStVx x := by
  cases i <;> simp [writtenBy]

theorem writtenBy_fb (i : Instr) (s t : State) :
    (writtenBy i s t).fb = s.fb ∨ i = .cls ∨ ∃ x y n, i = .drw x y n := by
  cases i <;> simp [writtenBy]

theorem writtenBy_mem (i : Instr) (s t : State) :
    (writtenBy i s t).mem = s.mem ∨ (∃ x, i = .ldB x) ∨ ∃ x, i = .storeRegs x := by
  cases i <;> simp [writtenBy]

theorem writtenBy_keys (i : Instr) (s t : State) : (writtenBy i s t).keys = s.keys := by cases i <;> rfl

theorem writtenBy_font (i : Instr) (s t : State) : (writtenBy i s t).font = s.font := by cases i <;> rfl

theorem writtenBy_schedule (i : Instr) (s t : State) : (writtenBy i s t).schedule = s.schedule := by cases i <;> rfl

theorem writtenBy_turns (i : Instr) (s t : State) : (writtenBy i s t).turns = s.turns := by cases i <;> rfl

/-- Settles O53: each field of the next state is that of `writtenBy`, which takes it from s but for its writers. -/
theorem writersOfTheControlState : Obligations.WritersOfTheControlState := by
  intro i s t h
  have ht := exec_eq_writtenBy h
  have hsp : t.sp = (writtenBy i s t).sp := congrArg State.sp ht
  have hstack : t.stack = (writtenBy i s t).stack := congrArg State.stack ht
  have hi : t.i = (writtenBy i s t).i := congrArg State.i ht
  have hdt : t.dt = (writtenBy i s t).dt := congrArg State.dt ht
  have hst : t.st = (writtenBy i s t).st := congrArg State.st ht
  refine ⟨fun hne => ?_, fun hne => ?_, fun hne => ?_, fun hne => ?_, ?_, ?_, ?_, ?_⟩
  · exact (writtenBy_stack i s t).resolve_left (by rw [← hsp, ← hstack]; tauto)
  · exact (writtenBy_i i s t).resolve_left (by rwa [← hi])
  · exact (writtenBy_dt i s t).resolve_left (by rwa [← hdt])
  · exact (writtenBy_st i s t).resolve_left (by rwa [← hst])
  · exact (congrArg State.keys ht).trans (writtenBy_keys i s t)
  · exact (congrArg State.font ht).trans (writtenBy_font i s t)
  · exact (congrArg State.schedule ht).trans (writtenBy_schedule i s t)
  · exact (congrArg State.turns ht).trans (writtenBy_turns i s t)

/-! ## Memory -/

theorem keepsMemory_of_eq {s t : State} (hfont : t.font = s.font) (hmem : t.mem = s.mem) : keepsMemory s t := by
  intro a
  rw [State.readByte, hfont, hmem, State.readByte]

@[simp] theorem length_bcdDigits (b : Byte) : (bcdDigits b).length = 3 := rfl

/-- An instruction that raises no report leaves memory alone or stores a block at I, inside the address space. -/
theorem ExecShape.memory {i : Instr} {s t : State} (h : ExecShape i s t) :
    t.mem = s.mem ∨ ∃ bs, t = s.writeBytes s.i.toNat bs ∧ s.i.toNat + bs.length ≤ 0x1000 ∧
      ((∃ x, i = .ldB x ∧ bs.length = 3) ∨ ∃ x, i = .storeRegs x ∧ bs.length = x.toNat + 1) := by
  obtain hmem | ⟨x, rfl⟩ | ⟨x, rfl⟩ := writtenBy_mem i s t
  · exact .inl ((congrArg State.mem h.eq_writtenBy).trans hmem)
  · obtain ⟨ht, hspan⟩ := h
    exact .inr ⟨_, ht, by rw [length_bcdDigits]; omega, .inl ⟨x, rfl, rfl⟩⟩
  · obtain ⟨ht, hspan⟩ := h
    exact .inr ⟨_, ht, by rw [State.length_regsUpTo]; omega, .inr ⟨x, rfl, s.length_regsUpTo x⟩⟩

/-- A block store changes no byte outside its block. -/
theorem State.mem_block_of_readByte_ne {s : State} {a c : Nat} {bs : List Byte}
    (h : (s.writeBytes a bs).readByte c ≠ s.readByte c) : a ≤ c ∧ c < a + bs.length := by
  by_contra hout
  exact h (by rw [State.readByte_writeBytes, if_neg hout])

/-- Settles O54: the screen by `writtenBy_fb`; a changed byte lies in the block that `ExecShape.memory` gives. -/
theorem writersOfScreenAndMemory : Obligations.WritersOfScreenAndMemory := by
  intro i s t h
  have ht := exec_eq_writtenBy h
  have hfb : t.fb = (writtenBy i s t).fb := congrArg State.fb ht
  refine ⟨fun hne => (writtenBy_fb i s t).resolve_left (by rwa [← hfb]), fun a ha => ?_⟩
  obtain ⟨r, rfl⟩ | hshape := exec_cases h
  · exact absurd rfl ha
  obtain hmem | ⟨bs, rfl, -, hwriter⟩ := hshape.memory
  · have hfont : t.font = s.font := (congrArg State.font ht).trans (writtenBy_font i s t)
    exact absurd (keepsMemory_of_eq hfont hmem a) ha
  · obtain ⟨hlo, hhi⟩ := State.mem_block_of_readByte_ne ha
    exact hwriter.imp (fun ⟨x, hx, hlen⟩ => ⟨x, hx, hlo, by omega⟩) (fun ⟨x, hx, hlen⟩ => ⟨x, hx, hlo, by omega⟩)

/-! ## The flag register -/

theorem eq_flag_of_keepsRegistersBut {s t : State} {x : Nibble} (h : keepsRegistersBut [x] s t)
    (hne : t.getV 0xF ≠ s.getV 0xF) : x = 0xF := by
  by_contra hx
  exact hne (h 0xF (by simpa using Ne.symm hx))

/-- Settles O55: an instruction that writes no register keeps the register file; one that writes its register x changes VF
only where x is F, and the flag writers are listed. -/
theorem writersOfTheFlagRegister : Obligations.WritersOfTheFlagRegister := by
  intro i s t h hne
  obtain ⟨r, rfl⟩ | hshape := exec_cases h
  · exact absurd rfl hne
  have hv : t.v = (writtenBy i s t).v := congrArg State.v hshape.eq_writtenBy
  have same_of_v (hv : t.v = s.v) : False := hne (by rw [State.getV, hv, State.getV])
  cases i
  case addReg | subReg | shrReg | subnReg | shlReg | drw => simp
  case ldImm | addImm | ldReg | orReg | andReg | xorReg | rnd | ldVxDt =>
    obtain ⟨-, hregs⟩ := hshape
    obtain rfl := eq_flag_of_keepsRegistersBut hregs hne
    simp
  case ldVxK =>
    obtain rfl | ⟨-, hregs⟩ := hshape
    · exact absurd rfl hne
    · obtain rfl := eq_flag_of_keepsRegistersBut hregs hne
      simp
  case loadRegs x =>
    obtain ⟨-, hregs⟩ := hshape
    have hx : x = 0xF := by
      by_contra hx
      exact hne (hregs 0xF (by bv_omega))
    simp [hx]
  all_goals exact (same_of_v hv).elim

/-! ## Reports -/

/-- Settles O51: an instruction that does not report leaves the log, so one that changes it reports and does no more. -/
theorem abortedInstructionChangesNothingElse : Obligations.AbortedInstructionChangesNothingElse := by
  intro i s t h hne
  obtain ⟨r, rfl⟩ | hshape := exec_cases h
  · rfl
  · obtain ⟨hlog, -⟩ := hshape.outputs
    exact absurd hlog hne

/-- Settles O56: a cpu tick adds at most one report, by `State.cpuTick_outputs`; a timer tick and a key update add none. -/
theorem reportLogOnlyGrows : Obligations.ReportLogOnlyGrows := by
  intro s t h hinit
  rw [step_eq] at h
  rw [← State.taken_reports]
  cases hu : s.upcoming with
  | init rom => exact absurd hu (hinit rom)
  | cpuTick rnd =>
    rw [hu] at h
    obtain ⟨r, hrep, -⟩ | ⟨-, i, -, hrep, -⟩ := State.cpuTick_outputs h
    · exact ⟨_, hrep.symm⟩
    · exact ⟨[], by rw [hrep, List.append_nil]⟩
  | timerTick =>
    rw [hu] at h
    cases h
    exact ⟨[], List.append_nil _⟩
  | setKeys keys =>
    rw [hu] at h
    cases h
    exact ⟨[], List.append_nil _⟩

/-- Settles O49: every transaction answers a next state, and a step is one. -/
theorem everyStepGoesOn : Obligations.EveryStepGoesOn := fun s => s.taken.transact_next s.upcoming

/-! ## The record after init -/

/-- The state that `init` loads its ROM into: the reset record, with the fields that are no part of the record as they were. -/
def State.blank (s : State) : State :=
  { State.reset with font := s.font, schedule := s.schedule, turns := s.turns, draws := s.draws }

theorem State.init_eq_loadRom (s : State) (rom : List Byte) : s.init rom = s.blank.loadRom rom := rfl

/-- The ROM changes memory and the log alone. -/
theorem State.init_eq (s : State) (rom : List Byte) :
    s.init rom = { s.blank with mem := (s.init rom).mem, reports := (s.init rom).reports } := by
  rw [State.init_eq_loadRom, State.loadRom]
  split
  · rfl
  · rw [State.writeBytes_eq]

/-! ## The invariants -/

/-- The inversion of the cpu tick: what its next state can be. -/
theorem State.cpuTick_cases {s t : State} {rnd : Option Byte} (h : s.cpuTick rnd = .next t) :
    (∃ r, t = { s with
        rnd := rnd, draws := s.draws + 1, pc := t.pc, reports := s.reports ++ [⟨some s.pc, r⟩] } ∧
      (t.pc = s.pc ∨ (s.pc.toNat < 0xFFF ∧ t.pc = s.pc + 2))) ∨
    (s.pc.toNat < 0xFFF ∧ ∃ i, ExecShape i (s.beginTick rnd).advance t) := by
  obtain ⟨u, hu, hc⟩ := s.cpuTick_shape rnd
  obtain rfl : u = t := by simpa [h] using hu.symm
  exact hc.imp id (fun ⟨hpc, i, _, hshape⟩ => ⟨hpc, i, hshape⟩)

/-- A property that every transaction keeps, and that taking the transaction off the host's sequence keeps, is kept by every
step. -/
theorem step_keeps {P : State → Prop} (htaken : ∀ s : State, P s → P s.taken)
    (htransact : ∀ (a : Transaction) (s t : State), P s → s.transact a = .next t → P t) {s t : State} (hs : P s)
    (h : step s = .next t) : P t :=
  htransact s.upcoming s.taken t (htaken s hs) h

/-! ### Memory in canonical form -/

theorem memoryCanonical_of_eq {s t : State} (hs : s.memoryCanonical) (hfont : t.font = s.font) (hmem : t.mem = s.mem) :
    t.memoryCanonical := by
  rwa [State.memoryCanonical, hfont, hmem]

theorem ExecShape.memoryCanonical {i : Instr} {s t : State} (h : ExecShape i s t) (hs : s.memoryCanonical) :
    t.memoryCanonical := by
  obtain hmem | ⟨bs, rfl, hspan, -⟩ := h.memory
  · exact memoryCanonical_of_eq hs ((congrArg State.font h.eq_writtenBy).trans (writtenBy_font i s t)) hmem
  · exact s.wf_writeBytes hs _ bs hspan

theorem State.loadRom_memoryCanonical {s : State} (hs : s.memoryCanonical) (rom : List Byte) :
    (s.loadRom rom).memoryCanonical := by
  unfold State.loadRom
  split
  · exact hs
  · exact s.wf_writeBytes hs _ rom (by simp only [Config.progStart, Config.maxRom] at *; omega)

theorem State.transact_memoryCanonical (a : Transaction) (s t : State) (hs : s.memoryCanonical)
    (h : s.transact a = .next t) : t.memoryCanonical := by
  cases a with
  | init rom =>
    cases h
    exact State.loadRom_memoryCanonical (s := s.blank) ⟨.nil, fun _ hc => absurd hc List.not_mem_nil⟩ rom
  | cpuTick rnd =>
    obtain ⟨r, ht, -⟩ | ⟨-, i, hshape⟩ := State.cpuTick_cases h
    · exact memoryCanonical_of_eq hs (congrArg State.font ht :) (congrArg State.mem ht :)
    · exact hshape.memoryCanonical hs
  | timerTick | setKeys => cases h; exact hs

/-- Settles O57: the invariant of `State.transact_memoryCanonical`, carried over to the step. -/
theorem stepKeepsMemoryCanonical : Obligations.StepKeepsMemoryCanonical := fun _ _ =>
  step_keeps (fun s hs => memoryCanonical_of_eq hs s.taken_font s.taken_mem) State.transact_memoryCanonical

/-! ### PC and the frames bounded -/

theorem pcBounded_of_eq {s t : State} (hs : s.pcBounded) (hpc : t.pc = s.pc) (hstack : t.stack = s.stack) :
    t.pcBounded := by
  rwa [State.pcBounded, hpc, hstack]

theorem stack_set_le {stack : Vector Word 16} {n : Nat} (hstack : ∀ k : Fin 16, stack[k.val].toNat ≤ n) {a : Word}
    (ha : a.toNat ≤ n) (j k : Fin 16) : (stack.set j.val a)[k.val].toNat ≤ n := by
  rw [Vector.getElem_set]
  split
  · exact ha
  · exact hstack k

/-- With PC past a fetched word, which is 2 to 0x1000, an instruction leaves PC at a target, a target plus V0, a frame, or
within 2 of where it was, and pushes no address above PC. -/
theorem ExecShape.pcBounded {i : Instr} {s t : State} (h : ExecShape i s t) (hlo : 2 ≤ s.pc.toNat)
    (hhi : s.pc.toNat ≤ 0x1000) (hstack : ∀ k : Fin 16, s.stack[k.val].toNat ≤ 0x1000) : t.pcBounded := by
  have hs : s.pcBounded := ⟨by omega, hstack⟩
  have hpc : t.pc = (writtenBy i s t).pc := congrArg State.pc h.eq_writtenBy
  have hframes : t.stack = (writtenBy i s t).stack := congrArg State.stack h.eq_writtenBy
  cases i
  case ret =>
    obtain ⟨-, k, htop⟩ := h
    exact ⟨by rw [htop]; have := hstack k; omega, by rw [hframes]; exact hstack⟩
  case call nnn =>
    obtain ⟨ht, j, hpush⟩ := h
    refine ⟨?_, by rw [hpush]; exact stack_set_le hstack hhi j⟩
    rw [show t.pc = zext16 nnn from congrArg State.pc ht, toNat_zext16]
    omega
  case jp nnn =>
    refine ⟨?_, by rw [hframes]; exact hstack⟩
    rw [show t.pc = zext16 nnn from congrArg State.pc h, toNat_zext16]
    omega
  case jpV0 nnn =>
    refine ⟨?_, by rw [hframes]; exact hstack⟩
    rw [show t.pc = zext16 nnn + byteToWord (s.getV 0) from congrArg State.pc h, BitVec.toNat_add, toNat_zext16]
    simp only [byteToWord, BitVec.toNat_setWidth]
    omega
  case seImm | sneImm | seReg | sneReg | skp | sknp =>
    obtain rfl | rfl := h
    · exact hs
    · exact ⟨by show (s.pc + 2).toNat ≤ _; bv_omega, hstack⟩
  case ldVxK =>
    obtain rfl | ⟨ht, -⟩ := h
    · exact ⟨by show (s.pc - 2).toNat ≤ _; bv_omega, hstack⟩
    · exact pcBounded_of_eq hs (congrArg State.pc ht :) hframes
  all_goals exact pcBounded_of_eq hs hpc hframes

theorem State.transact_pcBounded (a : Transaction) (s t : State) (hs : s.pcBounded) (h : s.transact a = .next t) :
    t.pcBounded := by
  cases a with
  | init rom =>
    cases h
    have hpc : (s.init rom).pc = 0x0200 := (congrArg State.pc (s.init_eq rom) :)
    have hstack : (s.init rom).stack = Vector.replicate 16 0x0000 := (congrArg State.stack (s.init_eq rom) :)
    rw [State.pcBounded, hpc, hstack]
    decide
  | cpuTick rnd =>
    obtain ⟨hpc, hstack⟩ := hs
    obtain ⟨r, ht, hnext⟩ | ⟨hlt, i, hshape⟩ := State.cpuTick_cases h
    · have hframes : t.stack = s.stack := (congrArg State.stack ht :)
      refine ⟨?_, by rw [hframes]; exact hstack⟩
      obtain hnext | ⟨hlt, hnext⟩ := hnext <;> rw [hnext] <;> bv_omega
    · exact hshape.pcBounded (by simp; bv_omega) (by simp; bv_omega) hstack
  | timerTick | setKeys => cases h; exact hs

/-- Settles O58: the invariant of `State.transact_pcBounded`, carried over to the step. -/
theorem stepKeepsPcBounded : Obligations.StepKeepsPcBounded := fun _ _ =>
  step_keeps (fun s hs => pcBounded_of_eq hs s.taken_pc s.taken_stack) State.transact_pcBounded

/-- Settles O59: nothing is listed in memory at reset, PC is 0x200 and every frame is 0. -/
theorem resetMeetsTheInvariants : Obligations.ResetMeetsTheInvariants :=
  ⟨reset_memory_wf, by decide⟩

end Sys2Proof.Machine
end

section
/-! Proofs about the fetch, the step and runs of transactions (10_state.md R60, R61, 20_memory.md R73,
40_execution_loop.md R130 to R133, decisions D1, D2, D5). -/

namespace Sys2Proof.Machine

/-! ## Fetch and decode -/

theorem State.toNat_readWord (s : State) (a : Nat) :
    (s.readWord a).toNat = 256 * (s.readByte a).toNat + (s.readByte (a + 1)).toNat :=
  toNat_bigEndian _ _

/-- Settles O6: the two bytes of the word, as `toNat_bigEndian` weighs them. -/
theorem fetchedWordIsBigEndian : Obligations.FetchedWordIsBigEndian := State.toNat_readWord

/-- Two bytes decode as their word does. -/
theorem decodeWord_of_decodeBytes {hi lo : Byte} {i : Instr} (h : decodeBytes [hi, lo] = .ok (i, [])) :
    decodeWord (bigEndian hi lo) = .ok i := by
  cases hw : decodeWord (bigEndian hi lo) with
  | ok j => simpa [decodeBytes, hw, Except.map] using h
  | error e => simp [decodeBytes, hw, Except.map] at h

theorem State.runWord_of_ok (s : State) {w : Word} {i : Instr} (h : decodeWord w = .ok i) : s.runWord w = exec i s := by
  rw [State.runWord, h]

/-- A cpu tick runs the instruction at PC, with PC past it and the tick's random byte. -/
theorem State.cpuTick_of_decodes (s : State) (rnd : Option Byte) {i : Instr} (hpc : s.pc.toNat < 0xFFF)
    (hi : decodeWord (s.readWord s.pc.toNat) = .ok i) : s.cpuTick rnd = exec i (s.beginTick rnd).advance := by
  rw [State.cpuTick_of_lt _ _ hpc, State.runWord_of_ok _ hi]

/-- Settles O7: the tick is `State.cpuTick_of_decodes`, on the state itself and on the state a transaction is taken off, which
has the same PC and memory. -/
theorem stepRunsTheDecodedInstruction : Obligations.StepRunsTheDecodedInstruction := by
  intro s i rnd hpc hbytes
  have hi : decodeWord (s.readWord s.pc.toNat) = .ok i := decodeWord_of_decodeBytes hbytes
  refine ⟨s.cpuTick_of_decodes rnd hpc hi, fun hup => ?_, fun rest hs => ?_⟩
  · rw [step_eq, hup]
    refine (s.taken.cpuTick_of_decodes rnd (by simpa) (by simpa)).trans ?_
    rw [State.advance, State.setPc, State.beginTick, State.taken_pc, State.taken_draws]
  · rw [step_of_cons s _ rest hs]
    exact State.cpuTick_of_decodes { s with schedule := rest } rnd hpc hi

/-- Settles O8: the step of a scheduled transaction and of a free one, by `step_of_cons` and `step_of_empty`. -/
theorem stepRunsTheNextTransaction : Obligations.StepRunsTheNextTransaction := fun s rest =>
  ⟨fun rom => step_of_cons s (.init rom) rest, fun b => step_of_cons s (.cpuTick b) rest,
    step_of_cons s .timerTick rest, fun k => step_of_cons s (.setKeys k) rest, step_of_empty s⟩

/-! ## An out-of-range fetch -/

/-- The first of PC and PC + 1 above 0xFFF, for a PC of 0xFFF or more. -/
theorem max_memSize_eq {a : Nat} (h : 0xFFF ≤ a) : max a 0x1000 = if a = 0xFFF then 0x1000 else a := by
  split <;> omega

/-- Settles O11: the tick's one report, whose address is the larger of PC and 0x1000. -/
theorem outOfRangeFetchIsReported : Obligations.OutOfRangeFetchIsReported := by
  intro s b hpc
  rw [State.cpuTick_of_ge _ _ hpc, max_memSize_eq hpc]
  rfl

/-! ## Runs of scheduled transactions -/

/-- A run of a schedule goes on from the state after its first transaction. -/
theorem runsTo_of_cons {k : Nat} {s t u : State} {a : Transaction} {rest : List Transaction}
    (hs : s.schedule = a :: rest) (h : State.transact { s with schedule := rest } a = .next t) (hr : runsTo k t u) :
    runsTo (k + 1) s u :=
  runsTo_succ ((step_of_cons s a rest hs).trans h) hr

/-- Settles O12, by induction on the ticks: each adds its report and leaves PC, so the next is out of range again. -/
theorem outOfRangeFetchRepeatsForever : Obligations.OutOfRangeFetchRepeatsForever := by
  intro s bytes rest hpc hs
  induction bytes generalizing s with
  | nil =>
    obtain rfl : s.schedule = rest := hs
    exact ⟨s, runsTo_zero s, by simp⟩
  | cons b bytes ih =>
    let u : State := State.beginTick { s with schedule := bytes.map .cpuTick ++ rest } b
    have htick := State.cpuTick_of_ge { s with schedule := bytes.map .cpuTick ++ rest } b hpc
    rw [max_memSize_eq hpc] at htick
    obtain ⟨t, hrun, ht⟩ := ih (u.logReport (some s.pc) _) hpc rfl
    refine ⟨t, runsTo_of_cons hs htick hrun, ?_⟩
    rw [List.length_cons, List.replicate_succ, List.append_cons]
    exact ht

/-- Settles O37, by induction on k: a timer tick lowers each timer by 1 as a number whose subtraction stops at 0. -/
theorem timersNeverGoBelowZero : Obligations.TimersNeverGoBelowZero := by
  intro k s rest hs
  induction k generalizing s with
  | zero =>
    obtain rfl : s.schedule = rest := hs
    exact ⟨s, runsTo_zero s, rfl, rfl, rfl⟩
  | succ k ih =>
    let u : State := { s with schedule := List.replicate k .timerTick ++ rest }
    obtain ⟨t, hrun, hdt, hst, ht⟩ := ih u.timerTick rfl
    have hdt' : u.timerTick.dt.toNat = s.dt.toNat - 1 := u.timerTick_dt_toNat
    have hst' : u.timerTick.st.toNat = s.st.toNat - 1 := u.timerTick_st_toNat
    exact ⟨t, runsTo_of_cons hs rfl hrun, by omega, by omega, ht⟩

/-! ## Any interleaving -/

/-- No transaction writes the schedule or the index of the free sequence. -/
theorem State.transact_keeps_host {a : Transaction} {s t : State} (h : s.transact a = .next t) :
    t.schedule = s.schedule ∧ t.turns = s.turns := by
  have hsame : s.transact a = .next { t with schedule := s.schedule, turns := s.turns } :=
    State.transact_host s.schedule s.turns h
  rw [h, Host.Outcome.next.injEq] at hsame
  exact ⟨(congrArg State.schedule hsame :), (congrArg State.turns hsame :)⟩

theorem runUnder_succ {k : Nat} {f : Nat → Transaction} {s u : State} (h : s.transact (f 0) = .next u) :
    runUnder (k + 1) f s = runUnder k (fun n => f (n + 1)) u := by
  rw [runUnder, h]

/-- The first k transactions of a sequence run, and so do k steps with them scheduled before the rest. -/
theorem runUnder_scheduled (f : Nat → Transaction) (k : Nat) (s : State) :
    ∃ t, runUnder k f s = .next t ∧ runsTo k { s with schedule := (List.range k).map f ++ s.schedule } t := by
  induction k generalizing f s with
  | zero => exact ⟨s, rfl, runsTo_zero s⟩
  | succ k ih =>
    obtain ⟨u, hu⟩ := s.transact_next (f 0)
    obtain ⟨hsched, hturns⟩ := State.transact_keeps_host hu
    obtain ⟨t, hrun, hsteps⟩ := ih (fun n => f (n + 1)) u
    refine ⟨t, (runUnder_succ hu).trans hrun, ?_⟩
    have hfirst := State.transact_host ((List.range k).map (fun n => f (n + 1)) ++ s.schedule) s.turns hu
    rw [hsched] at hsteps
    refine runsTo_of_cons (a := f 0) ?_ hfirst (by rw [← hturns]; exact hsteps)
    rw [List.range_succ_eq_map, List.map_cons, List.map_map]
    rfl

/-- With nothing scheduled, k steps from the index n of the free sequence run its next k transactions. -/
theorem runUnder_free (k n : Nat) (s : State) (hs : s.schedule = []) :
    ∃ t, runUnder k (fun j => Config.freeTransaction (n + j)) s = .next t ∧
      runsTo k { s with turns := n } { t with turns := n + k } := by
  induction k generalizing n s with
  | zero => exact ⟨s, rfl, runsTo_zero _⟩
  | succ k ih =>
    obtain ⟨u, hu⟩ := s.transact_next (Config.freeTransaction n)
    obtain ⟨hsched, -⟩ := State.transact_keeps_host hu
    obtain ⟨t, hrun, hsteps⟩ := ih (n + 1) u (hsched.trans hs)
    have hfirst : step { s with turns := n } = .next { u with turns := n + 1 } := by
      have hhost := State.transact_host s.schedule (n + 1) hu
      rw [hsched]
      exact (step_of_empty { s with turns := n } hs).trans hhost
    refine ⟨t, (runUnder_succ hu).trans (by simpa only [Nat.add_assoc, Nat.add_comm 1] using hrun), ?_⟩
    rw [show n + (k + 1) = n + 1 + k by omega]
    exact runsTo_succ hfirst hsteps

/-- Settles O9: `runUnder_scheduled` for the scheduled part, `runUnder_free` from the state's own index for the free one. -/
theorem everyInterleavingIsARun : Obligations.EveryInterleavingIsARun := fun f k s =>
  ⟨runUnder_scheduled f k s, runUnder_free k s.turns s⟩

end Sys2Proof.Machine
end

section
/-! Proofs about the call stack and the jump with offset (41_control_flow.md R200, R202, R203, decisions D8, D9, D18, D26). -/

namespace Sys2Proof.Machine

/-! ## One call and one return -/

/-- A call with room on the stack pushes PC and jumps. -/
theorem exec_call_of_lt (nnn : Addr12) (s : State) (h : s.sp.val < 16) :
    exec (.call nnn) s = .next { s with
      pc := zext16 nnn, stack := s.stack.set s.sp.val s.pc, sp := ⟨s.sp.val + 1, by omega⟩ } := by
  rw [exec, execCall, s.push?_of_lt _ h]
  rfl

/-- A return from a non-empty stack pops into PC. -/
theorem exec_ret_of_pos (s : State) (h : 0 < s.sp.val) :
    exec .ret s = .next { s with pc := s.stack[s.sp.val - 1], sp := ⟨s.sp.val - 1, by omega⟩ } := by
  rw [exec, execRet, s.pop?_of_pos h]
  rfl

/-! ## Aborted instructions -/

theorem abortedWith_logReport (s : State) (r : Report) : abortedWith r s (s.logReport (some (s.pc - 2)) r) :=
  ⟨rfl, s.readByte_logReport _ _⟩

/-- What an instruction does that raises the report r. -/
theorem exec_aborts {i : Instr} {s : State} {r : Report} (h : exec i s = s.raise r) :
    ∃ t, exec i s = .next t ∧ abortedWith r s t :=
  ⟨_, h, abortedWith_logReport s r⟩

/-! ## The obligations -/

/-- Settles O14: the frame at SP takes PC, the others are not touched by the write. -/
theorem callPushesAndJumps : Obligations.CallPushesAndJumps := fun nnn s h =>
  ⟨_, exec_call_of_lt nnn s h, toNat_zext16 nnn, rfl, Vector.getElem_set_self _,
    fun _ hk => Vector.getElem_set_ne h _ hk.symm, rfl, fun _ => rfl⟩

/-- Settles O15: the pop reads the top frame and lowers SP. -/
theorem returnPopsIntoPc : Obligations.ReturnPopsIntoPc := fun s h =>
  ⟨_, exec_ret_of_pos s h, rfl, rfl, rfl, rfl, fun _ => rfl⟩

/-- Settles O16: with no room the push fails, with no frame the pop does, and each raises its report. -/
theorem stackErrorsAreReported : Obligations.StackErrorsAreReported := by
  intro nnn s
  refine ⟨fun h => exec_aborts ?_, fun h => exec_aborts ?_⟩
  · rw [exec, execCall, s.push?_full _ h, encode_call]
  · rw [exec, execRet, s.pop?_empty h]
    rfl

/-- Settles O18: the sum of a 12-bit and an 8-bit value stays below 2^16. -/
theorem jumpWithOffsetAddsV0 : Obligations.JumpWithOffsetAddsV0 := by
  intro nnn s
  refine ⟨_, rfl, ?_, onlyPc_setPc s _⟩
  rw [State.setPc_pc, BitVec.toNat_add, toNat_zext16, byteToWord, BitVec.toNat_setWidth]
  omega

/-- Settles O17, by induction on the targets: the first call pushes PC at SP, the calls and returns within leave that frame
alone, and the last return pops it. -/
theorem nestedCallsReturnInReverse : Obligations.NestedCallsReturnInReverse := by
  intro targets s hroom
  induction targets generalizing s with
  | nil => exact ⟨s, rfl, rfl, fun _ _ => rfl⟩
  | cons nnn targets ih =>
    rw [List.length_cons] at hroom
    let called : State := { s with
      pc := zext16 nnn, stack := s.stack.set s.sp.val s.pc, sp := ⟨s.sp.val + 1, by omega⟩ }
    have hcall : exec (.call nnn) s = .next called := exec_call_of_lt nnn s (by omega)
    obtain ⟨t, hrun, ht, hframes⟩ := ih called (by show s.sp.val + 1 + _ ≤ 16; omega)
    obtain ⟨frames, rfl⟩ : ∃ frames, t = { called with stack := frames } := ⟨_, ht⟩
    have hret := exec_ret_of_pos { called with stack := frames } (Nat.succ_pos s.sp.val)
    have htop : frames[s.sp.val] = s.pc :=
      (hframes ⟨s.sp.val, by omega⟩ (Nat.lt_succ_self _)).trans (Vector.getElem_set_self _)
    refine ⟨{ s with stack := frames }, ?_, rfl, fun k hk => ?_⟩
    · rw [List.map_cons, List.length_cons, List.replicate_succ', List.cons_append, ← List.append_assoc,
        execAll_cons _ hcall, execAll_append _ hrun, execAll_cons _ hret]
      exact congrArg (fun a => Host.Outcome.next { s with stack := frames, pc := a }) htop
    · exact (hframes k (Nat.lt_succ_of_lt hk)).trans (Vector.getElem_set_ne (by omega) _ hk.ne')

end Sys2Proof.Machine
end

section
/-! Proofs about the register operations with a flag, the shifts, the random byte and the index register
(42_register_alu.md R303 to R311, 43_index_memory.md R401, R402, decisions D10 to D12, D16, D24, D34). -/

namespace Sys2Proof.Machine

/-! ## The flag values as numbers -/

theorem toNat_flagOf (c : Bool) : (flagOf c).toNat = if c then 1 else 0 := by cases c <;> rfl

theorem toNat_carryFlag (a b : Byte) : (carryFlag a b).toNat = (a.toNat + b.toNat) / 256 := by
  rw [carryFlag, toNat_flagOf]
  simp only [decide_eq_true_eq]
  split <;> omega

theorem toNat_noBorrowFlag (a b : Byte) : (noBorrowFlag a b).toNat = if a.toNat > b.toNat then 1 else 0 := by
  rw [noBorrowFlag, toNat_flagOf]
  simp only [decide_eq_true_eq]

theorem toNat_shiftedOutRight (b : Byte) : (shiftedOutRight b).toNat = b.toNat % 2 := by
  rw [shiftedOutRight, BitVec.toNat_and]
  exact Nat.and_one_is_mod _

theorem toNat_shiftedOutLeft (b : Byte) : (shiftedOutLeft b).toNat = b.toNat / 128 := by
  rw [shiftedOutLeft, BitVec.toNat_and, BitVec.toNat_ushiftRight, Nat.shiftRight_eq_div_pow]
  refine (Nat.and_one_is_mod _).trans (Nat.mod_eq_of_lt ?_)
  omega

theorem toNat_shiftRight_one (b : Byte) : (b >>> 1).toNat = b.toNat / 2 := by
  rw [BitVec.toNat_ushiftRight, Nat.shiftRight_eq_div_pow, Nat.pow_one]

theorem toNat_shiftLeft_one (b : Byte) : (b <<< 1).toNat = b.toNat * 2 % 256 := by
  rw [BitVec.toNat_shiftLeft, Nat.shiftLeft_eq, Nat.pow_one]

/-! ## The shapes of the register operations -/

/-- What an instruction does that writes the byte b to Vx and then f to the flag. -/
theorem exec_writes_register_then_flag {i : Instr} {s : State} {x : Nibble} {b f : Byte}
    (h : exec i s = .next ((s.setV x b).setFlag f)) :
    ∃ t, exec i s = .next t ∧ (x ≠ 0xF → t.getV x = b) ∧ t.getV 0xF = f ∧
      keepsRegistersBut [x, 0xF] s t ∧ onlyRegisters s t := by
  refine ⟨_, h, fun (hx : x ≠ 0xF#4) => ?_, State.getV_setV_same _ _ _, keepsRegistersBut_setV_setFlag s x b f, rfl,
    fun _ => rfl⟩
  rw [State.getV_setFlag, if_neg hx, State.getV_setV_same]

/-- What an instruction does that copies Vy to Vx, takes the flag from Vx and then acts on Vx: where x is F the last step acts
on the flag. -/
theorem exec_shifts {i : Instr} {s : State} {x y : Nibble} {f g : Byte → Byte}
    (h : exec i s = .next (((s.setV x (s.getV y)).flagFrom x f).updateV x g)) :
    ∃ t, exec i s = .next t ∧ (x ≠ 0xF → t.getV x = g (s.getV y) ∧ t.getV 0xF = f (s.getV y)) ∧
      (x = 0xF → t.getV 0xF = g (f (s.getV y))) ∧ keepsRegistersBut [x, 0xF] s t ∧ onlyRegisters s t := by
  refine ⟨_, h, fun (hx : x ≠ 0xF#4) => ⟨?_, ?_⟩, ?_, fun r hr => ?_, rfl, fun _ => rfl⟩
  · simp [State.updateV, State.flagFrom, State.getV_setFlag, hx]
  · simp [State.updateV, State.flagFrom, State.getV_setFlag, State.getV_setV, Ne.symm hx]
  · rintro rfl
    simp [State.updateV, State.flagFrom, State.getV_setFlag]
  · simp at hr
    simp [State.updateV, State.flagFrom, State.getV_setFlag, State.getV_setV, hr]

/-! ## The obligations of the register operations -/

/-- Settles O22: each operation is one write of Vx, whose bits are those of the library's OR, AND and XOR. -/
theorem bitwiseOperationsLeaveTheFlag : Obligations.BitwiseOperationsLeaveTheFlag := by
  intro x y s
  refine ⟨?_, ?_, ?_⟩
  · obtain ⟨t, hexec, hx, hregs, honly⟩ := exec_writes_register (i := .orReg x y) (s := s) rfl
    exact ⟨t, hexec, hregs, honly, fun k => by rw [hx, BitVec.getLsbD_or]⟩
  · obtain ⟨t, hexec, hx, hregs, honly⟩ := exec_writes_register (i := .andReg x y) (s := s) rfl
    exact ⟨t, hexec, hregs, honly, fun k => by rw [hx, BitVec.getLsbD_and]⟩
  · obtain ⟨t, hexec, hx, hregs, honly⟩ := exec_writes_register (i := .xorReg x y) (s := s) rfl
    exact ⟨t, hexec, hregs, honly, fun k => by rw [hx, BitVec.getLsbD_xor]⟩

/-- Settles O23: the carry is the sum divided by 256 and Vx the sum mod 256; where x is F the carry is what stays. -/
theorem addWithCarryGivesTheNineBitSum : Obligations.AddWithCarryGivesTheNineBitSum := by
  intro x y s
  obtain ⟨t, hexec, hx, hflag, hregs, honly⟩ := exec_writes_register_then_flag (i := .addReg x y) (s := s) rfl
  have hcarry : (t.getV 0xF).toNat = ((s.getV x).toNat + (s.getV y).toNat) / 256 := by rw [hflag, toNat_carryFlag]
  refine ⟨t, hexec, fun hne => ?_, fun hF => hF ▸ hcarry, hregs, honly⟩
  rw [hcarry, hx hne, BitVec.toNat_add]
  exact Nat.div_add_mod _ 256

/-- A difference mod 256 as a number. -/
theorem toNat_byte_sub (a b : Byte) : (a - b).toNat = (a.toNat + 256 - b.toNat) % 256 := by
  rw [BitVec.toNat_sub]
  omega

/-- Settles O24: both subtractions write the difference and then the strict comparison, with the operands exchanged. -/
theorem subtractionsSetNoBorrow : Obligations.SubtractionsSetNoBorrow := by
  intro x y s
  constructor
  · obtain ⟨t, hexec, hx, hflag, hregs, honly⟩ := exec_writes_register_then_flag (i := .subReg x y) (s := s) rfl
    exact ⟨t, hexec, fun hne => by rw [hx hne, toNat_byte_sub], by rw [hflag, toNat_noBorrowFlag], hregs, honly⟩
  · obtain ⟨t, hexec, hx, hflag, hregs, honly⟩ := exec_writes_register_then_flag (i := .subnReg x y) (s := s) rfl
    exact ⟨t, hexec, fun hne => by rw [hx hne, toNat_byte_sub], by rw [hflag, toNat_noBorrowFlag], hregs, honly⟩

/-- Settles O25: `exec_shifts` for both, with the shifts and the dropped bits as numbers. -/
theorem shiftsTakeTheirValueFromVy : Obligations.ShiftsTakeTheirValueFromVy := by
  intro x y s
  constructor
  · obtain ⟨t, hexec, hne, hF, hregs, honly⟩ := exec_shifts (i := .shrReg x y) (s := s) rfl
    refine ⟨t, hexec, fun h => ?_, fun h => ?_, hregs, honly⟩
    · obtain ⟨hvalue, hflag⟩ := hne h
      rw [hvalue, hflag, toNat_shiftRight_one, toNat_shiftedOutRight]
      exact ⟨rfl, rfl⟩
    · refine BitVec.eq_of_toNat_eq ?_
      rw [hF h, toNat_shiftRight_one, toNat_shiftedOutRight]
      exact Nat.div_eq_of_lt (Nat.mod_lt _ (by decide))
  · obtain ⟨t, hexec, hne, hF, hregs, honly⟩ := exec_shifts (i := .shlReg x y) (s := s) rfl
    refine ⟨t, hexec, fun h => ?_, fun h => ?_, hregs, honly⟩
    · obtain ⟨hvalue, hflag⟩ := hne h
      rw [hvalue, hflag, toNat_shiftLeft_one, toNat_shiftedOutLeft]
      exact ⟨rfl, rfl⟩
    · rw [hF h, toNat_shiftLeft_one, toNat_shiftedOutLeft]
      omega

/-- Settles O26: one write of Vx; in a tick that is given the byte b, that byte is what `State.rand` reads. -/
theorem randomByteIsMasked : Obligations.RandomByteIsMasked := by
  intro x nn s
  refine ⟨exec_writes_register rfl, fun b hpc hword => ?_⟩
  have hi : decodeWord (s.readWord s.pc.toNat) = .ok (.rnd x nn) := by
    rw [hword, ← encode_rnd, decodeWord_encode]
  exact ⟨_, s.cpuTick_of_decodes (some b) hpc hi, State.getV_setV_same _ x _⟩

/-! ## The index register and the sound timer -/

/-- Settles O28: both write I alone; 5 times a byte fits 16 bits. -/
theorem indexComputationsFromVx : Obligations.IndexComputationsFromVx := by
  intro x s
  refine ⟨⟨_, rfl, ?_, onlyI_setI s _⟩, ⟨_, rfl, ?_, onlyI_setI s _⟩⟩
  · rw [State.setI_i, BitVec.toNat_add, byteToWord, BitVec.toNat_setWidth]
    omega
  · rw [State.setI_i, glyphAddress, Config.glyphBytes, BitVec.toNat_ofNat]
    omega

/-- Settles O35: one write of ST. -/
theorem setSoundTimer : Obligations.SetSoundTimer := fun x s =>
  ⟨s.setSt (s.getV x), rfl, rfl, rfl, s.readByte_setSt _⟩

end Sys2Proof.Machine
end

section
/-! Proofs about the memory transfers (43_index_memory.md R403 to R405, 20_memory.md R76, R77, decisions D3, D4, D14, D17). -/

namespace Sys2Proof.Machine

/-! ## The bytes of a stored block -/

theorem State.readByte_writeBytes_inside (s : State) (a : Nat) {bs : List Byte} {j : Nat} (h : j < bs.length) :
    (s.writeBytes a bs).readByte (a + j) = bs[j] := by
  rw [State.readByte_writeBytes, if_pos (by omega), Nat.add_sub_cancel_left, List.getD_eq_getElem _ _ h]

theorem State.readByte_writeBytes_outside (s : State) (a : Nat) {bs : List Byte} {c : Nat}
    (h : c < a ∨ a + bs.length ≤ c) : (s.writeBytes a bs).readByte c = s.readByte c := by
  rw [State.readByte_writeBytes, if_neg (by omega)]

/-! ## The span check -/

theorem State.withSpan_of_le {s : State} (w : Word) (kind : AccessKind) {k : Nat} (done : State)
    (h : s.i.toNat + k - 1 ≤ 0xFFF) : s.withSpan w kind k done = .next done := by
  rw [State.withSpan_eq, if_pos h]

theorem State.withSpan_of_gt {s : State} (w : Word) (kind : AccessKind) {k : Nat} (done : State)
    (h : 0xFFF < s.i.toNat + k - 1) :
    s.withSpan w kind k done = s.raise (.outOfRange (some w) kind (max s.i.toNat 0x1000)) := by
  rw [State.withSpan_eq, if_neg (by omega)]

theorem exec_ldB_of_le (x : Nibble) {s : State} (h : s.i.toNat + 2 ≤ 0xFFF) :
    exec (.ldB x) s = .next (s.writeBytes s.i.toNat (bcdDigits (s.getV x))) :=
  State.withSpan_of_le _ _ _ (by omega)

theorem exec_storeRegs_of_le (x : Nibble) {s : State} (h : s.i.toNat + x.toNat ≤ 0xFFF) :
    exec (.storeRegs x) s = .next (s.writeBytes s.i.toNat (s.regsUpTo x)) :=
  State.withSpan_of_le _ _ _ (by omega)

theorem exec_loadRegs_of_le (x : Nibble) {s : State} (h : s.i.toNat + x.toNat ≤ 0xFFF) :
    exec (.loadRegs x) s = .next (s.loadV 0 (s.readBytes s.i.toNat (x.toNat + 1))) :=
  State.withSpan_of_le _ _ _ (by omega)

/-! ## The obligations -/

/-- A byte is put together from its three decimal digits. -/
theorem bcdDigits_eq (b : Byte) : ∃ h t u : Byte, bcdDigits b = [h, t, u] ∧
    100 * h.toNat + 10 * t.toNat + u.toNat = b.toNat ∧ t.toNat ≤ 9 ∧ u.toNat ≤ 9 := by
  refine ⟨_, _, _, rfl, ?_⟩
  simp only [BitVec.toNat_ofNat]
  omega

/-- Settles O29: the three bytes of the block are the digits of `bcdDigits_eq`. -/
theorem bcdStoresThreeDigits : Obligations.BcdStoresThreeDigits := by
  intro x s hspan
  obtain ⟨h, t, u, hdigits, hsum, ht, hu⟩ := bcdDigits_eq (s.getV x)
  refine ⟨_, exec_ldB_of_le x hspan, ?_⟩
  rw [hdigits]
  have byte0 := s.readByte_writeBytes_inside s.i.toNat (bs := [h, t, u]) (j := 0) (by simp)
  have byte1 := s.readByte_writeBytes_inside s.i.toNat (bs := [h, t, u]) (j := 1) (by simp)
  have byte2 := s.readByte_writeBytes_inside s.i.toNat (bs := [h, t, u]) (j := 2) (by simp)
  simp only [Nat.add_zero, List.getElem_cons_zero, List.getElem_cons_succ] at byte0 byte1 byte2
  rw [byte0, byte1, byte2]
  exact ⟨hsum, ht, hu, fun a ha => s.readByte_writeBytes_outside _ (by simp; omega), State.writeBytes_eq _ _ _⟩

/-- Settles O30: byte k of the block is V[k], and the block is x + 1 bytes long. -/
theorem blockStoreWritesV0ToVx : Obligations.BlockStoreWritesV0ToVx := by
  intro x s hspan
  refine ⟨_, exec_storeRegs_of_le x hspan, fun k hk => ?_, fun a ha => ?_, State.writeBytes_eq _ _ _⟩
  · have hlen : k.toNat < (s.regsUpTo x).length := by rw [State.length_regsUpTo]; omega
    rw [s.readByte_writeBytes_inside _ hlen, State.getElem_regsUpTo, BitVec.ofNat_toNat, BitVec.setWidth_eq]
  · exact s.readByte_writeBytes_outside _ (by rw [State.length_regsUpTo]; omega)

/-- Settles O31: `State.getV_loadV` for the block of x + 1 bytes from I. -/
theorem blockLoadReadsV0ToVx : Obligations.BlockLoadReadsV0ToVx := by
  intro x s hspan
  have hx := x.isLt
  have hregs := s.getV_loadV 0 (s.readBytes s.i.toNat (x.toNat + 1)) (by rw [State.length_readBytes]; omega)
  rw [State.length_readBytes] at hregs
  refine ⟨_, exec_loadRegs_of_le x hspan, fun k hk => ?_, fun k hk => ?_, State.loadV_eq _ _ _, ?_⟩
  · have hlen : k.toNat < (s.readBytes s.i.toNat (x.toNat + 1)).length := by rw [State.length_readBytes]; omega
    rw [hregs, if_pos (by omega), Nat.sub_zero, List.getD_eq_getElem _ _ hlen, State.getElem_readBytes]
  · rw [hregs, if_neg (by omega)]
  · rw [State.loadV_eq]
    exact fun _ => rfl

/-- Settles O33: the store puts V[k] at I + k and keeps I, and the load reads it there. -/
theorem blockLoadRestoresABlockStore : Obligations.BlockLoadRestoresABlockStore := by
  intro x s t u w hspan hstore hload k hk
  obtain ⟨t', hstore', hbytes, -, hmem⟩ := blockStoreWritesV0ToVx x s hspan
  obtain rfl : t = t' := by simpa [hstore] using hstore'
  have hi : t.i = s.i := (congrArg State.i hmem :)
  obtain ⟨u', hload', hregs, -⟩ := blockLoadReadsV0ToVx x { t with v := w } (by rw [hi]; exact hspan)
  obtain rfl : u = u' := by simpa [hload] using hload'
  rw [hregs k hk]
  show t.readByte (t.i.toNat + k.toNat) = _
  rw [hi, hbytes k hk]

/-- Settles O32: each instruction is its span check, which fails and raises. -/
theorem outOfRangeTransfersAreReported : Obligations.OutOfRangeTransfersAreReported := by
  intro x y n s
  rw [← encode_ldB, ← encode_storeRegs, ← encode_loadRegs, ← encode_drw]
  refine ⟨fun h => exec_aborts ?_, fun h => exec_aborts ?_, fun h => exec_aborts ?_, fun hn h => exec_aborts ?_⟩
  · exact State.withSpan_of_gt _ _ _ (by omega)
  · exact State.withSpan_of_gt _ _ _ (by omega)
  · exact State.withSpan_of_gt _ _ _ (by omega)
  · rw [exec, execDrw, if_neg hn]
    exact State.withSpan_of_gt _ _ _ h

end Sys2Proof.Machine
end

section
/-! Proofs about the key instructions (44_timers_keys.md R504 to R506, 70_reset_and_hazards.md R808, decisions D15, D31). -/

namespace Sys2Proof.Machine

/-- Settles O38: a key index selects a key, and each instruction is a skip on it. -/
theorem skipsOnKey : Obligations.SkipsOnKey := by
  intro x s h
  have hskp : exec (.skp x) s = .next (s.skipIf (s.key ⟨(s.getV x).toNat, h⟩)) := by
    rw [exec, execSkp, keyIndex?_of_lt _ h]
  have hsknp : exec (.sknp x) s = .next (s.skipIf (!s.key ⟨(s.getV x).toNat, h⟩)) := by
    rw [exec, execSknp, keyIndex?_of_lt _ h]
  have skips_unless := exec_skips hsknp
  simp only [Bool.not_eq_true', ← Bool.not_eq_true, ite_not] at skips_unless
  exact ⟨exec_skips hskp, skips_unless⟩

/-- Settles O39: no key index, so both raise. -/
theorem keyIndexAboveFifteenIsReported : Obligations.KeyIndexAboveFifteenIsReported := by
  intro x s h
  rw [← encode_skp, ← encode_sknp]
  refine ⟨exec_aborts ?_, exec_aborts ?_⟩
  · rw [exec, execSkp, keyIndex?_of_ge _ h]
  · rw [exec, execSknp, keyIndex?_of_ge _ h]

theorem State.lowestKey?_of_pressed {s : State} {k : Fin 16} (hk : s.key k = true)
    (hlow : ∀ j : Fin 16, j < k → s.key j = false) : s.lowestKey? = some k := by
  cases hkey : s.lowestKey? with
  | none => simp [s.lowestKey?_none.mp hkey k] at hk
  | some j =>
    obtain ⟨hj, hjlow⟩ := s.lowestKey?_some j hkey
    obtain hlt | rfl | hgt := lt_trichotomy j k
    · simp [hlow j hlt] at hj
    · rfl
    · simp [hjlow k hgt] at hk

theorem exec_ldVxK_of_none (x : Nibble) {s : State} (h : ∀ k : Fin 16, s.key k = false) :
    exec (.ldVxK x) s = .next s.rewind := by
  rw [exec, execLdVxK, s.lowestKey?_none.mpr h]

/-- Settles O40: the lowest pressed key is the one that `State.lowestKey?` finds; without one, the rewind. -/
theorem waitKeyTakesTheLowestKeyOrRewinds : Obligations.WaitKeyTakesTheLowestKeyOrRewinds := by
  intro x s
  refine ⟨fun k hk hlow => ?_, fun hnone => ⟨_, exec_ldVxK_of_none x hnone, ?_, onlyPc_setPc s _⟩⟩
  · have hexec : exec (.ldVxK x) s = .next (s.setV x (BitVec.ofNat 8 k.val)) := by
      rw [exec, execLdVxK, State.lowestKey?_of_pressed hk hlow]
    obtain ⟨t, ht, hx, hregs, honly⟩ := exec_writes_register hexec
    exact ⟨t, ht, by rw [hx, BitVec.toNat_ofNat]; omega, hregs, honly⟩
  · rw [State.rewind_pc, BitVec.toNat_sub]
    exact congrArg (· % 65536) (Nat.add_comm _ _)

/-- A cpu tick at Fx0A without a pressed key leaves the record as it was. -/
theorem State.cpuTick_waits {s : State} (rnd : Option Byte) {x : Nibble} (hpc : s.pc.toNat < 0xFFF)
    (hi : decodeWord (s.readWord s.pc.toNat) = .ok (.ldVxK x)) (hkeys : ∀ j : Fin 16, s.key j = false) :
    s.cpuTick rnd = .next (s.beginTick rnd) := by
  have back : s.pc + 2 - 2 = s.pc := BitVec.add_sub_cancel _ _
  rw [s.cpuTick_of_decodes rnd hpc hi, exec_ldVxK_of_none x (s := (s.beginTick rnd).advance) hkeys, State.rewind,
    State.advance_pc, State.beginTick_pc, back]
  rfl

/-- Settles O41, by induction on the ticks: each leaves the record, so the next waits again. -/
theorem waitKeySpinsWithoutAKey : Obligations.WaitKeySpinsWithoutAKey := by
  intro x s bytes rest hs hpc hword hkeys
  rw [← encode_ldVxK] at hword
  induction bytes generalizing s with
  | nil =>
    obtain rfl : s.schedule = rest := hs
    exact ⟨s, runsTo_zero s, rfl⟩
  | cons b bytes ih =>
    let u : State := { s with schedule := bytes.map .cpuTick ++ rest }
    have hi : decodeWord (u.readWord u.pc.toNat) = .ok (.ldVxK x) :=
      (congrArg decodeWord hword).trans (decodeWord_encode _)
    obtain ⟨t, hrun, ht⟩ := ih (u.beginTick b) rfl hpc hword hkeys
    exact ⟨t, runsTo_of_cons hs (State.cpuTick_waits b hpc hi hkeys) hrun, ht⟩

end Sys2Proof.Machine
end

section
/-! Proofs about the sprite draw (45_display.md R600, R602, R604, R605, decisions D13, D14, D17). -/

namespace Sys2Proof.Machine

/-! ## Flipping a set of pixels -/

/-- q is p with exactly the covered pixels of the grid flipped, and the collision flag set as well where one of them was lit in
p. The pairs are those of `blitPixel`: the framebuffer and the flag so far. -/
def Flips (cover : Nat → Nat → Bool) (p q : Framebuffer × Bool) : Prop :=
  (∀ c r, c < 64 → r < 32 → q.1.pixel c r = (p.1.pixel c r ^^ cover c r)) ∧
    (q.2 = true ↔ p.2 = true ∨ ∃ c r, c < 64 ∧ r < 32 ∧ cover c r = true ∧ p.1.pixel c r = true)

theorem flips_nothing (p : Framebuffer × Bool) : Flips (fun _ _ => false) p p := ⟨by simp, by simp⟩

/-- Two flips of disjoint sets are one flip of their union: the first leaves the pixels of the second as they were. -/
theorem Flips.union {m m' : Nat → Nat → Bool} {p q u : Framebuffer × Bool} (hpq : Flips m p q) (hqu : Flips m' q u)
    (hdisj : ∀ c r, m' c r = true → m c r = false) : Flips (fun c r => m c r || m' c r) p u := by
  obtain ⟨hpix, hflag⟩ := hpq
  obtain ⟨hpix', hflag'⟩ := hqu
  refine ⟨fun c r hc hr => ?_, ?_⟩
  · rw [hpix' c r hc hr, hpix c r hc hr]
    cases hm' : m' c r
    · simp [hm']
    · simp [hm', hdisj c r hm']
  · have lit_before : ∀ c r, c < 64 → r < 32 → m' c r = true → q.1.pixel c r = p.1.pixel c r := by
      intro c r hc hr hm'
      rw [hpix c r hc hr, hdisj c r hm', Bool.xor_false]
    rw [hflag', hflag]
    constructor
    · rintro ((hp | ⟨c, r, hc, hr, hm, hlit⟩) | ⟨c, r, hc, hr, hm', hlit⟩)
      · exact .inl hp
      · exact .inr ⟨c, r, hc, hr, by simp [hm], hlit⟩
      · exact .inr ⟨c, r, hc, hr, by simp [hm'], lit_before c r hc hr hm' ▸ hlit⟩
    · rintro (hp | ⟨c, r, hc, hr, hcov, hlit⟩)
      · exact .inl (.inl hp)
      · obtain hm | hm' := Bool.or_eq_true_iff.mp hcov
        · exact .inl (.inr ⟨c, r, hc, hr, hm, hlit⟩)
        · exact .inr ⟨c, r, hc, hr, hm', (lit_before c r hc hr hm').trans hlit⟩

/-! ## What the scan of a sprite flips -/

theorem flips_blitPixel (c r : Nat) (p : Framebuffer × Bool) :
    Flips (fun c' r' => decide (c' = c ∧ r' = r)) p (blitPixel c r p) := by
  unfold blitPixel
  split
  case isTrue hin =>
    obtain ⟨hc, hr⟩ := hin
    refine ⟨fun c' r' _ _ => ?_, ?_⟩
    · rw [Framebuffer.pixel_toggle _ hc hr]
      by_cases h : c' = c ∧ r' = r <;> simp [h]
    · constructor
      · intro h
        obtain h | h := Bool.or_eq_true_iff.mp h
        · exact .inl h
        · exact .inr ⟨c, r, hc, hr, by simp, h⟩
      · rintro (h | ⟨c', r', -, -, hcov, h⟩)
        · simp [h]
        · obtain ⟨rfl, rfl⟩ := of_decide_eq_true hcov
          simp [h]
  case isFalse hout =>
    have outside : ∀ c' r', c' < 64 → r' < 32 → ¬ (c' = c ∧ r' = r) := by
      rintro c' r' hc hr ⟨rfl, rfl⟩
      exact hout ⟨hc, hr⟩
    refine ⟨fun c' r' hc hr => by simp [outside c' r' hc hr], ⟨.inl, ?_⟩⟩
    rintro (h | ⟨c', r', hc, hr, hcov, -⟩)
    · exact h
    · exact absurd (of_decide_eq_true hcov) (outside c' r' hc hr)

/-- The first k bits of a sprite row cover the place (c', r'), the row drawn from column c of screen row r. -/
def rowCovers (row : Byte) (c r k c' r' : Nat) : Bool :=
  decide (r' = r ∧ c ≤ c' ∧ c' < c + k) && row.getLsbD (7 - (c' - c))

theorem flips_bits (row : Byte) (c r k : Nat) (p : Framebuffer × Bool) :
    Flips (rowCovers row c r k) p
      ((List.range k).foldl (fun q b => if row.getLsbD (7 - b) then blitPixel (c + b) r q else q) p) := by
  induction k with
  | zero =>
    have hnone : rowCovers row c r 0 = fun _ _ => false := by
      funext c' r'
      simp only [rowCovers, Bool.and_eq_false_imp, decide_eq_true_eq]
      omega
    rw [hnone]
    exact flips_nothing p
  | succ k ih =>
    rw [List.range_succ, List.foldl_append, List.foldl_cons, List.foldl_nil]
    have hstep : ∀ q, Flips (fun c' r' => decide (c' = c + k ∧ r' = r) && row.getLsbD (7 - k)) q
        (if row.getLsbD (7 - k) then blitPixel (c + k) r q else q) := by
      intro q
      cases row.getLsbD (7 - k)
      · simpa using flips_nothing q
      · simpa using flips_blitPixel (c + k) r q
    have hsplit : rowCovers row c r (k + 1) =
        fun c' r' => rowCovers row c r k c' r' || (decide (c' = c + k ∧ r' = r) && row.getLsbD (7 - k)) := by
      funext c' r'
      by_cases hk : c' = c + k
      · subst hk
        simp [rowCovers]
      · have : c' < c + (k + 1) ↔ c' < c + k := by omega
        simp [rowCovers, hk, this]
    rw [hsplit]
    refine ih.union (hstep _) (fun c' r' h => ?_)
    simp only [Bool.and_eq_true, decide_eq_true_eq] at h
    obtain ⟨⟨hcol, -⟩, -⟩ := h
    simp [rowCovers, hcol]

/-- The sprite rows cover the place (c', r'), drawn from column c of screen row r down. -/
def rowsCover (rows : List Byte) (c r c' r' : Nat) : Bool :=
  decide (r ≤ r' ∧ r' < r + rows.length ∧ c ≤ c' ∧ c' < c + 8) && (rows.getD (r' - r) 0).getLsbD (7 - (c' - c))

theorem rowsCover_cons (row : Byte) (rest : List Byte) (c r c' r' : Nat) :
    rowsCover (row :: rest) c r c' r' = (rowCovers row c r 8 c' r' || rowsCover rest c (r + 1) c' r') := by
  obtain hlt | rfl | hgt := Nat.lt_trichotomy r' r
  · have above : ¬ r ≤ r' := by omega
    have above_rest : ¬ r + 1 ≤ r' := by omega
    simp [rowsCover, rowCovers, above, above_rest, hlt.ne]
  · simp [rowsCover, rowCovers]
  · have index : r' - r = r' - (r + 1) + 1 := by omega
    have last : r' < r + (rest.length + 1) ↔ r' < r + 1 + rest.length := by omega
    have below : r + 1 ≤ r' := hgt
    simp [rowsCover, rowCovers, index, last, below, hgt.le, hgt.ne']

theorem flips_blitRows (rows : List Byte) (c r : Nat) (p : Framebuffer × Bool) :
    Flips (rowsCover rows c r) p (blitRows rows c r p) := by
  induction rows generalizing r p with
  | nil =>
    have hnone : rowsCover [] c r = fun _ _ => false := by
      funext c' r'
      simp only [rowsCover, Bool.and_eq_false_imp, decide_eq_true_eq, List.length_nil]
      omega
    rw [hnone]
    exact flips_nothing p
  | cons row rest ih =>
    have hsplit : rowsCover (row :: rest) c r =
        fun c' r' => rowCovers row c r 8 c' r' || rowsCover rest c (r + 1) c' r' := by
      funext c' r'
      exact rowsCover_cons row rest c r c' r'
    rw [hsplit]
    refine (flips_bits row c r 8 p).union (ih (r + 1) _) (fun c' r' h => ?_)
    simp only [rowsCover, Bool.and_eq_true, decide_eq_true_eq] at h
    have : r' ≠ r := by omega
    simp [rowCovers, this]

/-- The sprite's rows as read from I on cover the places that `State.spriteCovers` says. -/
theorem State.rowsCover_readBytes (s : State) (x y n : Nibble) :
    rowsCover (s.readBytes s.i.toNat n.toNat) (s.anchorColumn x) (s.anchorRow y) = s.spriteCovers x y n := by
  funext c r
  unfold rowsCover State.spriteCovers
  rw [State.length_readBytes]
  by_cases h : s.anchorRow y ≤ r ∧ r < s.anchorRow y + n.toNat
  · have hlen : r - s.anchorRow y < (s.readBytes s.i.toNat n.toNat).length := by rw [State.length_readBytes]; omega
    rw [List.getD_eq_getElem _ _ hlen, State.getElem_readBytes]
  · have hout : ¬ (s.anchorRow y ≤ r ∧ r < s.anchorRow y + n.toNat ∧ s.anchorColumn x ≤ c ∧
        c < s.anchorColumn x + 8) := by tauto
    simp only [hout, decide_false, Bool.false_and]

theorem State.flips_blit (s : State) (x y n : Nibble) : Flips (s.spriteCovers x y n) (s.fb, false) (s.blit x y n) := by
  rw [← State.rowsCover_readBytes]
  exact flips_blitRows _ _ _ _

/-! ## The draw -/

theorem exec_drw_of_le (x y : Nibble) {n : Nibble} {s : State} (h : n = 0x0 ∨ s.i.toNat + n.toNat - 1 ≤ 0xFFF) :
    exec (.drw x y n) s = .next (s.draw x y n) := by
  rw [exec, execDrw]
  split
  · rfl
  · next hn => exact State.withSpan_of_le _ _ _ (h.resolve_left hn)

/-- The flag of a draw is set exactly when the sprite covers a lit pixel. -/
theorem State.blit_flag (s : State) (x y n : Nibble) : (s.blit x y n).2 = true ↔ s.spriteCollides x y n := by
  simpa [State.spriteCollides] using (s.flips_blit x y n).2

/-- Settles O43: the scan flips the covered pixels and finds the collision, by `State.flips_blit`. -/
theorem drawFlipsTheCoveredPixels : Obligations.DrawFlipsTheCoveredPixels := by
  intro x y n s hspan
  obtain ⟨hpix, -⟩ := s.flips_blit x y n
  have hregs : keepsRegistersBut [0xF] s (s.draw x y n) := by
    intro r hr
    simp at hr
    simp [State.draw, State.getV_setFlag, hr]
  have hflag : (s.draw x y n).getV 0xF = flagOf (s.blit x y n).2 := State.getV_setV_same _ _ _
  refine ⟨_, exec_drw_of_le x y hspan, hpix, fun h => ?_, fun h => ?_, hregs, rfl, rfl, fun _ => rfl⟩
  · rw [hflag, (s.blit_flag x y n).mpr h]
    rfl
  · rw [hflag, Bool.eq_false_iff.mpr (mt (s.blit_flag x y n).mp h)]
    rfl

/-! ## Drawing twice -/

theorem Framebuffer.ext_pixel {f g : Framebuffer} (h : ∀ c r, c < 64 → r < 32 → f.pixel c r = g.pixel c r) : f = g := by
  refine Vector.ext fun r hr => BitVec.eq_of_getLsbD_eq fun c hc => ?_
  simpa [Framebuffer.pixel, hr] using h c r hc hr

/-- What a sprite covers depends on the registers, I and memory alone. -/
theorem spriteCovers_congr {s t : State} (hv : t.v = s.v) (hi : t.i = s.i) (hmem : keepsMemory s t) (x y n : Nibble) :
    t.spriteCovers x y n = s.spriteCovers x y n := by
  have hrow : t.anchorRow y = s.anchorRow y := by rw [State.anchorRow, State.getV, hv]; rfl
  have hcol : t.anchorColumn x = s.anchorColumn x := by rw [State.anchorColumn, State.getV, hv]; rfl
  funext c r
  rw [State.spriteCovers, hrow, hcol, hi, hmem]
  rfl

/-- Settles O44: the second draw covers the same pixels, and flipping a pixel twice gives it back. -/
theorem drawingTwiceRestoresTheScreen : Obligations.DrawingTwiceRestoresTheScreen := by
  intro x y n s t u hspan hfirst hsecond
  obtain ⟨t', ht', hpix, -, -, -, -, ⟨honly, hmem⟩⟩ := drawFlipsTheCoveredPixels x y n s hspan
  obtain rfl : t = t' := by simpa [hfirst] using ht'
  have hi : t.i = s.i := (congrArg State.i honly :)
  obtain ⟨u', hu', hpix', -⟩ := drawFlipsTheCoveredPixels x y n { t with v := s.v } (by rw [hi]; exact hspan)
  obtain rfl : u = u' := by simpa [hsecond] using hu'
  have hcov : State.spriteCovers { t with v := s.v } x y n = s.spriteCovers x y n :=
    spriteCovers_congr (s := s) (t := { t with v := s.v }) rfl hi hmem x y n
  refine Framebuffer.ext_pixel fun c r hc hr => ?_
  rw [hpix' c r hc hr, hcov, hpix c r hc hr, Bool.xor_assoc, Bool.xor_self, Bool.xor_false]

end Sys2Proof.Machine
end

section
/-! Proofs about `init` (10_state.md R45, 70_reset_and_hazards.md R800, R801, decisions D20, D30). -/

namespace Sys2Proof.Machine

/-! ## Memory with nothing listed -/

theorem State.readByte_of_mem_nil {s : State} (h : s.mem = []) (a : Nat) : s.readByte a = Memory.unlisted s.font a := by
  rw [State.readByte, h]
  rfl

theorem Memory.unlisted_of_lt (font : Vector Byte 80) {a : Nat} (h : a < 80) : Memory.unlisted font a = font[a] := by
  rw [Memory.unlisted, Vector.getElem?_eq_getElem h, Option.getD_some]

theorem Memory.unlisted_of_ge (font : Vector Byte 80) {a : Nat} (h : 80 ≤ a) : Memory.unlisted font a = 0x00 := by
  rw [Memory.unlisted, Vector.getElem?_eq_none h, Option.getD_none]

/-! ## The two outcomes of loading a ROM -/

theorem State.init_of_le (s : State) {rom : List Byte} (h : rom.length ≤ 3584) :
    s.init rom = s.blank.writeBytes 0x200 rom := by
  rw [State.init_eq_loadRom, State.loadRom, if_neg (Nat.not_lt.mpr h)]

theorem State.init_of_gt (s : State) {rom : List Byte} (h : 3584 < rom.length) :
    s.init rom = s.blank.logReport none (.romTooLarge rom.length) := by
  rw [State.init_eq_loadRom, State.loadRom, if_pos h]

theorem State.init_nil (s : State) : s.init [] = s.blank := s.init_of_le (Nat.zero_le _)

/-! ## The obligations -/

/-- Settles O45: by `State.init_eq` every element but memory and the log is that of the blank record. -/
theorem initGivesTheResetValues : Obligations.InitGivesTheResetValues := by
  intro s rom
  have h := s.init_eq rom
  have hv : (s.init rom).v = Vector.replicate 16 0x00 := (congrArg State.v h :)
  have hpc : (s.init rom).pc = 0x0200 := (congrArg State.pc h :)
  have hstack : (s.init rom).stack = Vector.replicate 16 0x0000 := (congrArg State.stack h :)
  have hkeys : (s.init rom).keys = Vector.replicate 16 false := (congrArg State.keys h :)
  have hfb : (s.init rom).fb = Framebuffer.dark := (congrArg State.fb h :)
  refine ⟨fun x => ?_, by rw [hpc]; rfl, (congrArg State.i h :), fun k => ?_, ?_, (congrArg State.dt h :),
    (congrArg State.st h :), fun k => ?_, fun c r => ?_, (congrArg State.renders h :), (congrArg State.font h :),
    (congrArg State.schedule h :)⟩
  · rw [State.getV, hv, Vector.getElem_replicate]
  · rw [hstack, Vector.getElem_replicate]
  · exact congrArg Fin.val (congrArg State.sp h)
  · rw [hkeys, Vector.getElem_replicate]
  · rw [hfb, Framebuffer.pixel_dark]

/-- Settles O46: the ROM is one block from 0x200, and outside it the blank record reads as FONT and 0. -/
theorem initPlacesFontAndRom : Obligations.InitPlacesFontAndRom := by
  intro s rom hlen
  rw [s.init_of_le hlen]
  have outside : ∀ a, a < 0x200 ∨ 0x200 + rom.length ≤ a →
      (s.blank.writeBytes 0x200 rom).readByte a = Memory.unlisted s.font a := by
    intro a ha
    rw [State.readByte_writeBytes_outside _ _ ha]
    exact State.readByte_of_mem_nil rfl a
  refine ⟨fun k => ?_, fun k hk => s.blank.readByte_writeBytes_inside 0x200 hk, fun a ha => ?_, ?_⟩
  · rw [outside k.val (by omega), Memory.unlisted_of_lt _ k.isLt]
  · rw [outside a (by omega), Memory.unlisted_of_ge _ (by omega)]
  · rw [State.writeBytes_eq]
    rfl

/-- Settles O47: the report is logged on the blank record, which is what the empty ROM leaves. -/
theorem oversizedRomIsRejectedWhole : Obligations.OversizedRomIsRejectedWhole := by
  intro s rom hlen
  rw [s.init_of_gt hlen, s.init_nil]
  rfl

/-- Settles O48: the blank record of the reset state is that state. -/
theorem resetIsInitOfTheEmptyRom : Obligations.ResetIsInitOfTheEmptyRom := by
  refine ⟨State.reset.init_nil, rfl, rfl, fun a ha => ?_, rfl⟩
  rw [State.readByte_of_mem_nil rfl, Memory.unlisted_of_ge _ ha]

end Sys2Proof.Machine
end
